-- ==== Sys2Proof/Word.lean ====
section
/-! DEFINITION. The widths of the block's registers and ports (10_state.md rules R21 to R24). Bits are numbered from 0,
the least significant (00_scope.md rule R7). -/

namespace Sys2Proof

/-- One byte of the payload buffer (R24: `buf[k]`, 8 bits). -/
abbrev Byte := BitVec 8

/-- A code of the FSM state register `st`, and of `err_state` (R26, R32: 4 bits). -/
abbrev StateCode := BitVec 4

/-- A code of the `status` register (R31, R76: 3 bits). -/
abbrev StatusCode := BitVec 3

/-- The payload bit index `bitn` (R28: 6 bits). -/
abbrev BitIndex := BitVec 6

/-- A humidity magnitude, or a 16-bit field of the frame (R24 `m_hum`, R53). -/
abbrev Field16 := BitVec 16

/-- A temperature magnitude (R24 `m_tmag`: 15 bits). -/
abbrev Mag15 := BitVec 15

/-- A 40-bit wire frame whose first received bit is bit 39 (R70). -/
abbrev Frame := BitVec 40

/-- The six bits `{rst, start, st}` that name what one tick does (R78: `rst` at bit 5). -/
abbrev CommandWord := BitVec 6

end Sys2Proof
end

