-- ==== Sys2Proof/Config.lean ====
section
/-! DEFINITION. The elaboration-time parameters (00_scope.md rules R4 and R6), the two named configurations, the input ports
of one tick (10_state.md rule R21), and the one family of free values: the inputs the outside world may give. -/

namespace Sys2Proof

/-- The configuration record of R4. `tickUs` is a whole number of microseconds (assumption 3). -/
structure Config where
  tickUs       : Nat
  tStartLow    : Nat
  tReleaseHigh : Nat
  tRespSettle  : Nat
  tRespLow     : Nat
  tBitSample   : Nat
  tEdgeTimeout : Nat
  wCnt         : Nat
deriving DecidableEq, Repr

/-- REF (R4): the spec's default for a real sensor. It is a default and claims nothing (D6, U1). -/
def Config.ref : Config :=
  { tickUs := 1, tStartLow := 1500, tReleaseHigh := 30, tRespSettle := 40, tRespLow := 80, tBitSample := 40,
    tEdgeTimeout := 200, wCnt := 16 }

/-- SMALL (R4, D8): legal by R5, below every device timing, for test vectors only. -/
def Config.small : Config :=
  { tickUs := 1, tStartLow := 3, tReleaseHigh := 2, tRespSettle := 2, tRespLow := 4, tBitSample := 3,
    tEdgeTimeout := 6, wCnt := 16 }

/-- `N_BITS` (R6). -/
abbrev nBits : Nat := 40

/-- `N_BYTES` (R6): the payload buffer has the byte indexes 0 to 4 and no others (R50). -/
abbrev nBytes : Nat := 5

/-- The input ports of one tick (R21), each sampled once at that tick's step. `lineIn` is `true` for a high line. -/
structure Inputs where
  rst    : Bool
  start  : Bool
  lineIn : Bool
deriving DecidableEq, Repr, Inhabited

/-- FREE VALUE (R20: "the sequence of (rst, start, line_in) is a free input"). What the ports carry at tick number `t` when
State lists no input for it. It has no body, so no proof can know its value (assumption 1). -/
opaque Config.freeInput : Nat → Inputs

end Sys2Proof
end

