-- ==== Sys2Proof/Syntax.lean ====
section
/-! DEFINITION. What one tick of the block can do: one constructor per row of spec/opcode_table.json (30_encoding.md rules
R74 and R78). The block executes no instruction stream, and a row stands for the rule that the tick's `{rst, start, st}`
selects (40_step.md rule R90). -/

namespace Sys2Proof

/-- The rows of the opcode table. The nine busy states carry the level of `start` at the tick, a bit of the command word that
R97 says has no effect there. RESET carries the two fields its pattern `1sSSSS` leaves free (R78). -/
inductive Instr where
  | idle
  | startLow (start : Bool)
  | startHigh (start : Bool)
  | respSettle (start : Bool)
  | respLow (start : Bool)
  | respWaitLow (start : Bool)
  | bitWaitHigh (start : Bool)
  | bitSample (start : Bool)
  | bitWaitLow (start : Bool)
  | check (start : Bool)
  | read
  | reset (start : Bool) (st : StateCode)
deriving DecidableEq, Repr

end Sys2Proof
end

