-- ==== Sys2Proof/WellFormed.lean ====
section
/-! DEFINITION. What a model refuses before it runs: an illegal configuration (00_scope.md rule R5). -/

namespace Sys2Proof

/-- The six durations R5 bounds. -/
def Config.durations (c : Config) : List Nat :=
  [c.tStartLow, c.tReleaseHigh, c.tRespSettle, c.tRespLow, c.tBitSample, c.tEdgeTimeout]

/-- R5: each duration is at least 1 and at most `2^W_CNT`, and `TICK_US` is greater than 0. -/
def Config.legal (c : Config) : Bool :=
  c.durations.all (fun d => decide (1 ≤ d) && decide (d ≤ 2 ^ c.wCnt)) && decide (0 < c.tickUs)

/-- R5's further condition on a configuration meant to drive a real sensor: the start signal lasts at least 1 ms. -/
def Config.drivesDevice (c : Config) : Bool :=
  c.legal && decide (1000 ≤ c.tStartLow * c.tickUs)

/-- Every term of `Instr` is well formed: `start` is a Bool and RESET's `SSSS` "may take any value" of its four bits (R78), so
there is no operand a check could refuse. A reserved state code is no instruction at all, and the decoder refuses it. -/
def Instr.wf : Instr → Bool
  | .idle => true
  | .startLow _ => true
  | .startHigh _ => true
  | .respSettle _ => true
  | .respLow _ => true
  | .respWaitLow _ => true
  | .bitWaitHigh _ => true
  | .bitSample _ => true
  | .bitWaitLow _ => true
  | .check _ => true
  | .read => true
  | .reset _ _ => true

end Sys2Proof
end

