-- ==== Sys2Proof/Decode.lean ====
section
/-! DEFINITION. The encodings: state codes (30_encoding.md R74), status codes (R76), the command word `{rst, start, st}`
(R78), its decoder and its encoder. -/

namespace Sys2Proof

/-! State codes (R74). -/

abbrev St.idle        : StateCode := 0x0#4
abbrev St.startLow    : StateCode := 0x1#4
abbrev St.startHigh   : StateCode := 0x2#4
abbrev St.respSettle  : StateCode := 0x3#4
abbrev St.respLow     : StateCode := 0x4#4
abbrev St.respWaitLow : StateCode := 0x5#4
abbrev St.bitWaitHigh : StateCode := 0x6#4
abbrev St.bitSample   : StateCode := 0x7#4
abbrev St.bitWaitLow  : StateCode := 0x8#4
abbrev St.check       : StateCode := 0x9#4

/-! Status codes (R76). -/

abbrev Stat.none             : StatusCode := 0#3
abbrev Stat.ok               : StatusCode := 1#3
abbrev Stat.noResponse       : StatusCode := 2#3
abbrev Stat.invalidHandshake : StatusCode := 3#3
abbrev Stat.checksumMismatch : StatusCode := 4#3
abbrev Stat.timeout          : StatusCode := 5#3

/-- The four error kinds a failure can report (R160). -/
inductive ErrorKind where
  | noResponse
  | invalidHandshake
  | checksumMismatch
  | timeout
deriving DecidableEq, Repr

/-- The status code of an error kind (R76, R160). -/
def errorCode : ErrorKind → StatusCode
  | .noResponse => Stat.noResponse
  | .invalidHandshake => Stat.invalidHandshake
  | .checksumMismatch => Stat.checksumMismatch
  | .timeout => Stat.timeout

/-- The meaning of a status code (R76). -/
inductive Status where
  | none
  | ok
  | failed (kind : ErrorKind)
deriving DecidableEq, Repr

/-- Decoding `status` from its 3 bits. Codes 6 and 7 are reserved and decode to nothing (R81). -/
def decodeStatus (c : StatusCode) : Option Status :=
  if c = Stat.none then some .none
  else if c = Stat.ok then some .ok
  else if c = Stat.noResponse then some (.failed .noResponse)
  else if c = Stat.invalidHandshake then some (.failed .invalidHandshake)
  else if c = Stat.checksumMismatch then some (.failed .checksumMismatch)
  else if c = Stat.timeout then some (.failed .timeout)
  else Option.none

/-- The command word of a tick (R78): `{rst, start, st}`, with `rst` at bit 5. -/
def packWord (rst start : Bool) (st : StateCode) : CommandWord :=
  BitVec.ofBool rst ++ BitVec.ofBool start ++ st

def wordRst (w : CommandWord) : Bool := w.getLsbD 5
def wordStart (w : CommandWord) : Bool := w.getLsbD 4
def wordSt (w : CommandWord) : StateCode := w.extractLsb' 0 4

/-- Why a command word names no row of the table. -/
inductive WordError where
  /-- `rst = 0` and `st` is one of the reserved codes 0xA to 0xF (R75). -/
  | reservedState (code : StateCode)
deriving DecidableEq, Repr

/-- Why a byte names no row: its word does not, or it has a bit set above the six the table gives. -/
inductive ByteError where
  | word (e : WordError)
  | highBits (b : Byte)
deriving DecidableEq, Repr

/-- The decoder, in the order of R90: `rst` before everything else, then the reserved codes, then the rule of the current
state; IDLE with `start = 1` is READ (R96). -/
def decodeWord (w : CommandWord) : Except WordError Instr :=
  if wordRst w then .ok (.reset (wordStart w) (wordSt w))
  else if wordSt w = St.idle then .ok (if wordStart w then .read else .idle)
  else if wordSt w = St.startLow then .ok (.startLow (wordStart w))
  else if wordSt w = St.startHigh then .ok (.startHigh (wordStart w))
  else if wordSt w = St.respSettle then .ok (.respSettle (wordStart w))
  else if wordSt w = St.respLow then .ok (.respLow (wordStart w))
  else if wordSt w = St.respWaitLow then .ok (.respWaitLow (wordStart w))
  else if wordSt w = St.bitWaitHigh then .ok (.bitWaitHigh (wordStart w))
  else if wordSt w = St.bitSample then .ok (.bitSample (wordStart w))
  else if wordSt w = St.bitWaitLow then .ok (.bitWaitLow (wordStart w))
  else if wordSt w = St.check then .ok (.check (wordStart w))
  else .error (.reservedState (wordSt w))

/-- The decoder on a byte whose two high bits must be zero: the table gives at most six bits. A row of 4 bits is the word with
`rst = 0` and `start = 0`. -/
def decodeByte (b : Byte) : Except ByteError Instr :=
  if b.extractLsb' 6 2 = 0#2 then
    match decodeWord (b.extractLsb' 0 6) with
    | .ok i => .ok i
    | .error e => .error (.word e)
  else .error (.highBits b)

/-- The encoder, from the table's columns (R74, R78). -/
def encode : Instr → CommandWord
  | .idle => packWord false false St.idle
  | .startLow start => packWord false start St.startLow
  | .startHigh start => packWord false start St.startHigh
  | .respSettle start => packWord false start St.respSettle
  | .respLow start => packWord false start St.respLow
  | .respWaitLow start => packWord false start St.respWaitLow
  | .bitWaitHigh start => packWord false start St.bitWaitHigh
  | .bitSample start => packWord false start St.bitSample
  | .bitWaitLow start => packWord false start St.bitWaitLow
  | .check start => packWord false start St.check
  | .read => packWord false true St.idle
  | .reset start st => packWord true start st

/-- The encoder on bytes: the two high bits are zero. -/
def encodeByte (i : Instr) : Byte := 0#2 ++ encode i

/-- The low six bits of a table word, as the hardware's `{rst, start, st}`. -/
def tableWord (nbits w : Nat) : CommandWord := BitVec.ofNat 6 (w % 2 ^ nbits)

/-- What the decoder reads from a word of the opcode table. -/
def decodeTableWord (nbits w : Nat) : Option Instr :=
  if w % 2 ^ nbits < 256 then (decodeByte (BitVec.ofNat 8 (w % 2 ^ nbits))).toOption else none

end Sys2Proof
end

