-- ==== Sys2Proof/Machine/State.lean ====
section
/-! DEFINITION. The state of the block, the reasons a step can stop, and the state after reset. -/

namespace Sys2Proof.Machine

/-- The payload buffer `buf[0..4]` (20_memory.md R50), the block's only storage: bytes by index, listed in rising order, an
index that is not listed reading 0x00, its reset value (R40). -/
abbrev Memory := List Host.Cell

/-- Why the machine stops: the two model faults of R162, and no other. -/
inductive Fault where
  /-- Raised by `step` at a reserved state code 0xA to 0xF with `rst = 0` (R75, R162). Safe: no hardware state is claimed
  after it, and no tick reached from a reset step has such a code. -/
  | reservedState
  /-- Raised by `State.hostView` when `status` holds 6 or 7 (R81, R162). Safe: the block never writes one. -/
  | reservedStatus
deriving DecidableEq, Repr

/-- Why the machine gives no meaning. -/
inductive Refusal where
  /-- Raised by an arm of `exec` that has no meaning yet. Safe. No arm does. -/
  | notModelled (mnemonic : String)
  /-- Raised by `step` on a configuration R5 calls illegal ("A model refuses an illegal configuration"). Safe. -/
  | illegalConfiguration
deriving DecidableEq, Repr

/-- The registers of 10_state.md R24, then three fields of the model's own: the configuration record, which no step changes
(R4, R61), and the inputs still to come. `pending` lists the inputs of this tick and the ticks after it. Where it is empty, the
tick's inputs are the free value `Config.freeInput tick` (assumption 1). -/
structure State where
  st       : StateCode
  cnt      : Nat
  bitn     : BitIndex
  buf      : Memory
  done     : Bool
  status   : StatusCode
  errState : StateCode
  mHum     : Field16
  mTmag    : Mag15
  mTneg    : Bool
  cfg      : Config
  tick     : Nat
  pending  : List Inputs
deriving DecidableEq, Repr

/-- `ResetState` (R40), the launch state of the model (R183). The configuration is REF (assumption 2), the tick number is 0 and
no input is listed (assumption 1). -/
def State.reset : State :=
  { st := St.idle, cnt := 0, bitn := 0, buf := [], done := false, status := Stat.none, errState := 0x0#4,
    mHum := 0, mTmag := 0, mTneg := false, cfg := Config.ref, tick := 0, pending := [] }

end Sys2Proof.Machine
end

