-- ==== Sys2Proof/Machine/Flags.lean ====
section
/-! DEFINITION. The host-visible report: `done`, `status` and `err_state`, every way the rules write them, and how the host
reads them (10_state.md rules R30 to R32, R35, R37, R38). -/

namespace Sys2Proof.Machine

/-- READ acceptance clears the report (R96). -/
def State.clearReport (s : State) : State := { s with done := false, status := Stat.none, errState := 0x0#4 }

/-- The success branch of CHECK (R141): `err_state` is not written. -/
def State.reportOk (s : State) : State := { s with done := true, status := Stat.ok }

/-- The report of a failure (R163): `err_state <- st`, the code of the state that raised it. -/
def State.reportFailure (k : ErrorKind) (s : State) : State :=
  { s with done := true, status := errorCode k, errState := s.st }

/-- The output `busy` (R35). -/
def State.busy (s : State) : Bool := s.st != St.idle

end Sys2Proof.Machine
end

