-- ==== Sys2Proof/Machine/Ops.lean ====
section
/-! DEFINITION. The named operations every meaning is written over: the payload buffer, the inputs of a tick, register writes,
the timed and the polling template, the failure procedure (the block's exception entry), and the reset assignment. -/

namespace Sys2Proof.Machine

/-- What a step or a meaning answers. -/
abbrev Result := Host.Outcome State Fault Refusal

/-! ## The payload buffer -/

/-- What an unlisted byte reads as: 0x00, the reset value of `buf[k]` (R40). -/
def unlistedByte : Byte := 0x00#8

/-- `buf[a]` as a read (R9: `MemRead`). -/
def Memory.read : Memory → Nat → Byte
  | [], _ => unlistedByte
  | (b, v) :: m, a => if b = a then v else Memory.read m a

/-- Put a byte in its place by rising index. -/
def Memory.insertByte (a : Nat) (v : Byte) : Memory → Memory
  | [] => [(a, v)]
  | (b, w) :: m => if b < a then (b, w) :: Memory.insertByte a v m else (a, v) :: (b, w) :: m

/-- `buf[a] <- v` (R9: `MemWrite`). Writing what an unlisted byte reads as removes the entry. DESIGN CHOICE (assumption 5): an
index of 5 or more names no byte (R50), so a write there stores nothing. -/
def Memory.write (m : Memory) (a : Nat) (v : Byte) : Memory :=
  if nBytes ≤ a then m
  else if v = unlistedByte then m.filter (fun c => c.1 != a) else Memory.insertByte a v (m.filter (fun c => c.1 != a))

/-- The canonical form: indexes strictly rising and below `N_BYTES`, and no entry that an unlisted index would read as. -/
abbrev Memory.wf (m : Memory) : Prop :=
  List.Pairwise (fun c d => c.1 < d.1) m ∧ ∀ c ∈ m, c.1 < nBytes ∧ c.2 ≠ unlistedByte

/-- `buf[k]`. -/
def State.loadByte (k : Nat) (s : State) : Byte := s.buf.read k

/-- `buf[k] <- v`. -/
def State.putByte (k : Nat) (v : Byte) (s : State) : State := { s with buf := s.buf.write k v }

/-! ## The inputs of a tick -/

/-- The inputs `n` ticks from now: listed, or free (R20). -/
def State.inputAt (s : State) (n : Nat) : Inputs :=
  match s.pending[n]? with
  | some i => i
  | none => Config.freeInput (s.tick + n)

/-- The inputs of this tick (R21). -/
def State.input (s : State) : Inputs := s.inputAt 0

/-- `LineIn()` (R9): the level of the line at this tick. -/
def State.lineIn (s : State) : Bool := s.input.lineIn

/-- One tick passes (R9): the next tick's inputs come up. -/
def State.advance (s : State) : State := { s with tick := s.tick + 1, pending := s.pending.tail }

/-- `advance` on an outcome: a fault or a refusal stays as it is. -/
def advanceResult : Result → Result
  | .next s => .next s.advance
  | .fault r => .fault r
  | .refused r => .refused r

/-- The command word `{rst, start, st}` of this tick (R78). -/
def State.commandWord (s : State) : CommandWord := packWord s.input.rst s.input.start s.st

/-! ## Register writes -/

/-- `cnt <- v`. The register has `W_CNT` bits (R24); the truncation is never seen from a reset state (R150), assumption 4. -/
def State.setCnt (v : Nat) (s : State) : State := { s with cnt := v % 2 ^ s.cfg.wCnt }

/-- "enter S" (R93): `st <- S; cnt <- 0`. -/
def State.enter (c : StateCode) (s : State) : State := { s with st := c, cnt := 0 }

/-- `bitn <- v`. -/
def State.setBitn (v : BitIndex) (s : State) : State := { s with bitn := v }

/-- The Sensor Session cleared at READ acceptance (R96): the five bytes and `bitn`. -/
def State.clearSession (s : State) : State := { s with buf := [], bitn := 0 }

/-- The measurement registers cleared at READ acceptance (R96, R33). -/
def State.clearMeasurement (s : State) : State := { s with mHum := 0, mTmag := 0, mTneg := false }

/-- The three measurement registers written together (R33, R141). -/
def State.latch (hum : Field16) (tmag : Mag15) (tneg : Bool) (s : State) : State :=
  { s with mHum := hum, mTmag := tmag, mTneg := tneg }

/-- The register assignment of R40, on every register of R24. The configuration and the inputs are not registers. -/
def State.resetRegisters (s : State) : State :=
  { s with st := St.idle, cnt := 0, bitn := 0, buf := [], done := false, status := Stat.none, errState := 0x0#4,
           mHum := 0, mTmag := 0, mTneg := false }

/-! ## The failure procedure and the two wait templates -/

/-- TAKING AN EXCEPTION: the failure procedure `Fail(code)` (R163). It saves the failing state's code in `err_state`, reports
the kind, and control goes to IDLE; `bitn`, `buf` and the measurement registers are unchanged. There is no return from a failure
(R167): the block is in IDLE at once, and the next READ starts afresh. -/
def raiseFail (k : ErrorKind) (s : State) : Result := .next ((s.reportFailure k).enter St.idle)

/-- One more tick in the same state: `cnt <- cnt + 1`. -/
def stay (s : State) : Result := .next (s.setCnt (s.cnt + 1))

/-- The timed-state template (R91) of duration `d >= 1`: `cnt = d - 1` is written `cnt + 1 = d`. -/
def timed (d : Nat) (exit : State → Result) (s : State) : Result :=
  if s.cnt + 1 = d then exit s else stay s

/-- The poll-state template (R92) for the level `l`: the awaited level comes before the timeout (R165). -/
def poll (l : Bool) (exit : State → Result) (s : State) : Result :=
  if s.lineIn = l then exit s
  else if s.cnt + 1 = s.cfg.tEdgeTimeout then raiseFail .timeout s
  else stay s

/-- `wait_microseconds(d)` in ticks (R10). -/
def ticksOfMicroseconds (c : Config) (us : Nat) : Nat := us / c.tickUs

end Sys2Proof.Machine
end

