-- ==== Sys2Proof/Machine/Operands.lean ====
section
/-! DEFINITION. The operand forms of the datapath: the bit slicer's byte, the fields of the Raw Sample and of the wire frame, the
checksum, the decode and the fixed-point scaler (20_memory.md R51 to R53, 30_encoding.md R70 and R79, 44_integrity_decode.md
R142 to R148). Values are computed on naturals and narrowed at the end (R8). -/

namespace Sys2Proof.Machine

/-! ## The bit slicer -/

/-- `k = bitn / 8` (R50, R133). -/
def State.byteIndex (s : State) : Nat := s.bitn.toNat / 8

/-- `((buf[k] << 1) | b) mod 256` (R133). -/
def sliceInto (v : Byte) (b : Bool) : Byte := BitVec.ofNat 8 ((v.toNat <<< 1) ||| b.toNat)

/-! ## Fields of the buffer (R53, R79) -/

/-- The humidity field `H = {buf[0], buf[1]}`, high byte first. -/
def fieldH (m : Memory) : Field16 := m.read 0 ++ m.read 1

/-- The temperature field `T = {buf[2], buf[3]}`, high byte first. -/
def fieldT (m : Memory) : Field16 := m.read 2 ++ m.read 3

/-- The sign `S = T[15]`. -/
def fieldS (m : Memory) : Bool := (fieldT m).getLsbD 15

/-- The magnitude `M = T[14:0] = T & 0x7FFF`. -/
def fieldM (m : Memory) : Mag15 := (fieldT m).extractLsb' 0 15

/-- The checksum operand `buf[4]`. -/
def fieldC (m : Memory) : Byte := m.read 4

/-- The 40-bit wire frame the five bytes are (R70): `F[39:32] = buf[0]` down to `F[7:0] = buf[4]`. -/
def frameOf (m : Memory) : Frame := m.read 0 ++ m.read 1 ++ m.read 2 ++ m.read 3 ++ m.read 4

/-- Byte `k` of a wire frame (R70): byte 0 is `F[39:32]`, byte 4 is `F[7:0]`. -/
def frameByte (f : Frame) (k : Nat) : Byte := f.extractLsb' (8 * (4 - k)) 8

/-! ## The checksum (R142) -/

/-- The exact sum of the four data bytes, 0 to 1020. -/
def exactSum (m : Memory) : Nat := (m.read 0).toNat + (m.read 1).toNat + (m.read 2).toNat + (m.read 3).toNat

/-- `Checksum(buf)`: the exact sum truncated to its low 8 bits. -/
def checksum (m : Memory) : Byte := BitVec.ofNat 8 (exactSum m % 256)

/-! ## The decode (R144, R145) -/

/-- The humidity decode: unsigned, no sign bit. -/
def decodeHum (m : Memory) : Field16 := fieldH m

/-- The temperature magnitude: 15 bits, never sign-extended. -/
def decodeTmag (m : Memory) : Mag15 := fieldM m

/-- The temperature sign: a negative zero is presented as +0. -/
def decodeTneg (m : Memory) : Bool := fieldS m && decide (fieldM m ≠ 0)

/-! ## The fixed-point scaler (R146, R147) -/

/-- `temp_tenths`: the sign-magnitude value as 16-bit two's complement. -/
def tempTenths (tneg : Bool) (tmag : Mag15) : Field16 :=
  if tneg then BitVec.ofNat 16 ((2 ^ 16 - tmag.toNat) % 2 ^ 16) else tmag.setWidth 16

/-- `int(m) = m / 10`, in `w` bits. -/
def intPart (w : Nat) (m : Nat) : BitVec w := BitVec.ofNat w (m / 10)

/-- `frac(m) = m % 10`, in 4 bits. -/
def fracPart (m : Nat) : BitVec 4 := BitVec.ofNat 4 (m % 10)

/-! ## The sensor's encoding of a measurement (R148) -/

/-- The temperature field of a value of `mag` tenths with the sign `neg`: `10*|v|`, plus 0x8000 for a negative value. -/
def encodeT (neg : Bool) (mag : Nat) : Field16 := BitVec.ofNat 16 (mag + if neg then 0x8000 else 0)

/-- The five bytes of a measurement of `hum` tenths and of `mag` tenths with the sign `neg`, the checksum last. -/
def encodeMeasurement (hum : Nat) (neg : Bool) (mag : Nat) : List Byte :=
  let h : Field16 := BitVec.ofNat 16 hum
  let t := encodeT neg mag
  let b0 : Byte := h.extractLsb' 8 8
  let b1 : Byte := h.extractLsb' 0 8
  let b2 : Byte := t.extractLsb' 8 8
  let b3 : Byte := t.extractLsb' 0 8
  [b0, b1, b2, b3, BitVec.ofNat 8 ((b0.toNat + b1.toNat + b2.toNat + b3.toNat) % 256)]

/-- The buffer that holds the bytes of a list, from index 0 on. -/
def bufferOf (bs : List Byte) : Memory :=
  ((List.range nBytes).filter (fun k => bs.getD k unlistedByte != unlistedByte)).map
    (fun k => (k, bs.getD k unlistedByte))

end Sys2Proof.Machine
end

