-- ==== Sys2Proof/Machine/Handshake.lean ====
section
/-! DEFINITION. Stage 2: RESP_SETTLE, RESP_LOW and RESP_WAIT_LOW (42_handshake.md R120 to R122). -/

namespace Sys2Proof.Machine

/-- RESP_SETTLE (R120): the presence sample must read 0. -/
def execRespSettle (s : State) : Result :=
  timed s.cfg.tRespSettle
    (fun s => if s.lineIn then raiseFail .noResponse s else .next (s.enter St.respLow)) s

/-- RESP_LOW (R121): the acknowledgment sample must read 1. -/
def execRespLow (s : State) : Result :=
  timed s.cfg.tRespLow
    (fun s => if s.lineIn then .next (s.enter St.respWaitLow) else raiseFail .invalidHandshake s) s

/-- RESP_WAIT_LOW (R122): poll for 0, the end of the acknowledgment. -/
def execRespWaitLow (s : State) : Result := poll false (fun s => .next (s.enter St.bitWaitHigh)) s

end Sys2Proof.Machine
end

