-- ==== Sys2Proof/Machine/HostCommand.lean ====
section
/-! DEFINITION. IDLE, READ and RESET (40_step.md R96, 70_reset_and_hazards.md R180). -/

namespace Sys2Proof.Machine

/-- IDLE with `start = 0` (R96): no register changes. -/
def execIdle (s : State) : Result := .next s

/-- READ (R96): the session, the report and the measurement are cleared, and the attempt enters START_LOW. -/
def execRead (s : State) : Result := .next (s.clearSession.clearReport.clearMeasurement.enter St.startLow)

/-- RESET (R180): every register takes its reset value, whatever the state and the other inputs are. -/
def execReset (s : State) : Result := .next s.resetRegisters

end Sys2Proof.Machine
end

