-- ==== Sys2Proof/Machine/Integrity.lean ====
section
/-! DEFINITION. Stage 4: CHECK (44_integrity_decode.md R141). It reads neither the line nor `cnt` and lasts one tick. -/

namespace Sys2Proof.Machine

/-- CHECK (R141): on a matching checksum the Measurement is latched and reported OK, otherwise the attempt fails. -/
def execCheck (s : State) : Result :=
  if checksum s.buf = fieldC s.buf then
    .next (((s.latch (decodeHum s.buf) (decodeTmag s.buf) (decodeTneg s.buf)).reportOk).enter St.idle)
  else raiseFail .checksumMismatch s

end Sys2Proof.Machine
end

