-- ==== Sys2Proof/Machine/LineReservation.lean ====
section
/-! DEFINITION. Stage 1: START_LOW and START_HIGH (41_line_reservation.md R110, R111). Neither reads the line or can fail. -/

namespace Sys2Proof.Machine

/-- START_LOW (R110). -/
def execStartLow (s : State) : Result := timed s.cfg.tStartLow (fun s => .next (s.enter St.startHigh)) s

/-- START_HIGH (R111). -/
def execStartHigh (s : State) : Result := timed s.cfg.tReleaseHigh (fun s => .next (s.enter St.respSettle)) s

end Sys2Proof.Machine
end

