-- ==== Sys2Proof/Machine/Payload.lean ====
section
/-! DEFINITION. Stage 3, the pulse-width bit slicer: BIT_WAIT_HIGH, BIT_SAMPLE and BIT_WAIT_LOW (43_payload.md R131, R133,
R135). -/

namespace Sys2Proof.Machine

/-- BIT_WAIT_HIGH (R131): poll for 1, the rising edge. -/
def execBitWaitHigh (s : State) : Result := poll true (fun s => .next (s.enter St.bitSample)) s

/-- BIT_SAMPLE (R133): at its last tick the line's level is shifted into `buf[bitn / 8]`. It cannot fail. With `bitn` of 40 to 63,
which no run reaches (R28), the index names no byte and nothing is stored (DESIGN CHOICE, assumption 5). -/
def execBitSample (s : State) : Result :=
  timed s.cfg.tBitSample
    (fun s => .next ((s.putByte s.byteIndex (sliceInto (s.loadByte s.byteIndex) s.lineIn)).enter St.bitWaitLow)) s

/-- BIT_WAIT_LOW (R135): poll for 0, then the next bit, or CHECK after bit 39. With `bitn = 63`, which no run reaches (R28), the
6-bit sum `bitn + 1` is 0 (DESIGN CHOICE, assumption 13). -/
def execBitWaitLow (s : State) : Result :=
  poll false
    (fun s =>
      if s.bitn = 39#6 then .next (s.enter St.check)
      else .next ((s.setBitn (s.bitn + 1)).enter St.bitWaitHigh)) s

end Sys2Proof.Machine
end

