-- ==== Sys2Proof/Machine/Dispatch.lean ====
section
/-! DEFINITION. One arm per row of the opcode table (40_step.md rule R90). -/

namespace Sys2Proof.Machine

def exec (i : Instr) (s : State) : Host.Outcome State Fault Refusal :=
  match i with
  | .idle => Sys2Proof.Machine.execIdle s
  | .startLow _ => Sys2Proof.Machine.execStartLow s
  | .startHigh _ => Sys2Proof.Machine.execStartHigh s
  | .respSettle _ => Sys2Proof.Machine.execRespSettle s
  | .respLow _ => Sys2Proof.Machine.execRespLow s
  | .respWaitLow _ => Sys2Proof.Machine.execRespWaitLow s
  | .bitWaitHigh _ => Sys2Proof.Machine.execBitWaitHigh s
  | .bitSample _ => Sys2Proof.Machine.execBitSample s
  | .bitWaitLow _ => Sys2Proof.Machine.execBitWaitLow s
  | .check _ => Sys2Proof.Machine.execCheck s
  | .read => Sys2Proof.Machine.execRead s
  | .reset _ _ => Sys2Proof.Machine.execReset s

end Sys2Proof.Machine
end

