-- ==== Sys2Proof/Machine/Outputs.lean ====
section
/-! DEFINITION. The output ports (10_state.md rules R22, R23 and R34 to R37): functions of the registers alone, so that reading
one has no side effect (20_memory.md R56). -/

namespace Sys2Proof.Machine

/-- `line_oe` (R34): only START_LOW and START_HIGH drive the line. -/
def lineOe (st : StateCode) : Bool := st == St.startLow || st == St.startHigh

/-- `line_out` (R34). -/
def lineOut (st : StateCode) : Bool := st != St.startLow

/-- `line_pu` (R22): always the opposite of `line_oe`. -/
def linePu (st : StateCode) : Bool := !lineOe st

/-- All output ports of R22 and R23, in the spec's order. -/
structure Outputs where
  lineOe     : Bool
  lineOut    : Bool
  linePu     : Bool
  busy       : Bool
  done       : Bool
  status     : StatusCode
  errState   : StateCode
  state      : StateCode
  bitIndex   : BitIndex
  raw0       : Byte
  raw1       : Byte
  raw2       : Byte
  raw3       : Byte
  raw4       : Byte
  humTenths  : BitVec 16
  tempNeg    : Bool
  tempMag    : BitVec 15
  tempTenths : BitVec 16
  humInt     : BitVec 13
  humFrac    : BitVec 4
  tempInt    : BitVec 12
  tempFrac   : BitVec 4
deriving DecidableEq, Repr

/-- `Out(state)` (R20). `cnt` is shown by no port (R25). -/
def State.outputs (s : State) : Outputs :=
  { lineOe := Sys2Proof.Machine.lineOe s.st
    lineOut := Sys2Proof.Machine.lineOut s.st
    linePu := Sys2Proof.Machine.linePu s.st
    busy := s.busy
    done := s.done
    status := s.status
    errState := s.errState
    state := s.st
    bitIndex := s.bitn
    raw0 := s.buf.read 0
    raw1 := s.buf.read 1
    raw2 := s.buf.read 2
    raw3 := s.buf.read 3
    raw4 := s.buf.read 4
    humTenths := s.mHum
    tempNeg := s.mTneg
    tempMag := s.mTmag
    tempTenths := Sys2Proof.Machine.tempTenths s.mTneg s.mTmag
    humInt := intPart 13 s.mHum.toNat
    humFrac := fracPart s.mHum.toNat
    tempInt := intPart 12 s.mTmag.toNat
    tempFrac := fracPart s.mTmag.toNat }

/-- What the host holds of an attempt (R37), the hardware reading of `Result<Measurement, ReadError>`. -/
inductive HostView where
  /-- No result: `done = 0` (or, in no reachable state, `done = 1` with `status = NONE`). -/
  | noResult
  /-- A Measurement: humidity, temperature magnitude and sign, in tenths. -/
  | measurement (hum : Field16) (tmag : Mag15) (tneg : Bool)
  /-- An error of one of the four kinds. -/
  | error (kind : ErrorKind)
deriving DecidableEq, Repr

/-- The host decodes `status` from its 3 bits; a reserved code is the model fault `reservedStatus` (R81, R162). -/
def State.hostView (s : State) : Except Fault HostView :=
  match decodeStatus s.status with
  | none => .error .reservedStatus
  | some .none => .ok .noResult
  | some .ok => .ok (if s.done then .measurement s.mHum s.mTmag s.mTneg else .noResult)
  | some (.failed k) => .ok (if s.done then .error k else .noResult)

end Sys2Proof.Machine
end

