-- ==== Sys2Proof/Machine/Step.lean ====
section
/-! DEFINITION. One tick of the block (10_state.md R20, 40_step.md R90). -/

namespace Sys2Proof.Machine

/-- An illegal configuration is refused (R5). Otherwise the tick's `{rst, start, st}` selects the rule (R90), a reserved state
code is the model fault `reservedState` (R75), and after the rule the tick has passed. -/
def step (s : State) : Host.Outcome State Fault Refusal :=
  if s.cfg.legal then
    match decodeWord s.commandWord with
    | .ok i => advanceResult (exec i s)
    | .error (.reservedState _) => .fault .reservedState
  else .refused .illegalConfiguration

/-- `s` with the ports and the state register set so that the very next step runs the row whose word is `w` (assumption 6):
`st` takes the word's low four bits, and this tick's `rst` and `start` take bits 5 and 4. The line keeps this tick's listed
level; where none is listed it is high, the level R82 gives a line nothing drives or reads. -/
def State.withFetchWord (s : State) (nbits w : Nat) : State :=
  let line : Bool :=
    match s.pending with
    | i :: _ => i.lineIn
    | [] => true
  { s with
    st := wordSt (tableWord nbits w)
    pending := { rst := wordRst (tableWord nbits w), start := wordStart (tableWord nbits w), lineIn := line } ::
      s.pending.tail }

end Sys2Proof.Machine
end

