-- ==== Sys2Proof/Safety.lean ====
section
/-! DEFINITION. What counts as a safe run, in the terms the statements use: runs of several ticks, the invariants of 10_state.md
R27, R28, R41 and 30_encoding.md R77, and the timing terms of 40_step.md R95 and 43_payload.md R137. -/

namespace Sys2Proof.Machine

/-! ## Runs -/

/-- `n` ticks from `s`, stopping at the first fault or refusal: the state at the start of the tick `n` ticks later. -/
def runFor : Nat → State → Result
  | 0, s => .next s
  | n + 1, s =>
    match step s with
    | .next t => runFor n t
    | .fault r => .fault r
    | .refused r => .refused r

/-- The level of the line `j` ticks from now. -/
def State.lineAt (s : State) (j : Nat) : Bool := (s.inputAt j).lineIn

/-- No reset at this tick and the `n - 1` ticks after it. -/
abbrev NoReset (s : State) (n : Nat) : Prop := ∀ j < n, (s.inputAt j).rst = false

/-- The tick accepts a READ (R78, R96), under a legal configuration. -/
abbrev AcceptsRead (s : State) : Prop :=
  s.cfg.legal = true ∧ s.st = St.idle ∧ s.input.rst = false ∧ s.input.start = true

/-! ## Invariants -/

/-- How many values `cnt` may take in a state (R27): the duration of a timed state, the bound of a poll state, and 1 (only the
value 0) in IDLE and CHECK, which are entered with `cnt <- 0` and never count. -/
def cntBound (c : Config) (st : StateCode) : Nat :=
  if st = St.startLow then c.tStartLow
  else if st = St.startHigh then c.tReleaseHigh
  else if st = St.respSettle then c.tRespSettle
  else if st = St.respLow then c.tRespLow
  else if st = St.bitSample then c.tBitSample
  else if st = St.respWaitLow ∨ st = St.bitWaitHigh ∨ st = St.bitWaitLow then c.tEdgeTimeout
  else 1

/-- R27: `cnt` is one of the values of its state. -/
abbrev CntInRange (s : State) : Prop := s.cnt < cntBound s.cfg s.st

/-- R41 (f): `st` is in 0x0 to 0x9 and `bitn` is in 0 to 39. -/
abbrev CodesInRange (s : State) : Prop := s.st.toNat ≤ 9 ∧ s.bitn.toNat ≤ 39

/-- The measurement registers are all zero. -/
abbrev MeasurementZero (s : State) : Prop := s.mHum = 0 ∧ s.mTmag = 0 ∧ s.mTneg = false

/-- R41 (a) to (d). -/
abbrev ReportConsistent (s : State) : Prop :=
  (s.busy = true → s.done = false ∧ s.status = Stat.none) ∧
  (s.done = false → s.status = Stat.none ∧ s.errState = 0x0#4 ∧ MeasurementZero s) ∧
  (s.status ≠ Stat.ok → MeasurementZero s) ∧
  (s.status = Stat.ok → s.errState = 0x0#4)

/-- R41 (e): after OK, the buffer's checksum matches and the measurement registers are the decode of the buffer. -/
abbrev PresentedFrameMatches (s : State) : Prop :=
  s.status = Stat.ok →
    (s.buf.read 4).toNat =
      ((s.buf.read 0).toNat + (s.buf.read 1).toNat + (s.buf.read 2).toNat + (s.buf.read 3).toNat) % 256 ∧
    s.mHum = decodeHum s.buf ∧ s.mTmag = decodeTmag s.buf ∧ s.mTneg = decodeTneg s.buf

/-- R77: the `(status, err_state)` pairs an attempt can leave. -/
def outcomePairs : List (StatusCode × StateCode) :=
  [(Stat.none, 0x0#4), (Stat.ok, 0x0#4), (Stat.noResponse, 0x3#4), (Stat.invalidHandshake, 0x4#4),
   (Stat.timeout, 0x5#4), (Stat.timeout, 0x6#4), (Stat.timeout, 0x8#4), (Stat.checksumMismatch, 0x9#4)]

abbrev OutcomeIsPair (s : State) : Prop := (s.status, s.errState) ∈ outcomePairs

/-- How many payload bits have been sliced (R28): `bitn`, and one more once bit `bitn` is in the buffer. -/
def acquired (s : State) : Nat :=
  if s.st = St.bitWaitLow ∨ s.st = St.check then s.bitn.toNat + 1 else s.bitn.toNat

/-- How many of them went into byte `k`. -/
def acquiredIn (s : State) (k : Nat) : Nat := min 8 (acquired s - 8 * k)

/-- R28 and R136, over a busy state: before the payload `bitn` is 0, in CHECK it is 39, and a byte that holds `c` bits is below
`2^c`, so that the next shift drops no 1 bit. -/
abbrev BufferProgress (s : State) : Prop :=
  (s.st.toNat ∈ [1, 2, 3, 4, 5] → s.bitn = 0#6) ∧
  (s.st = St.check → s.bitn = 39#6) ∧
  (s.busy = true → ∀ k < nBytes, (s.buf.read k).toNat < 2 ^ acquiredIn s k)

/-- The buffer reads zero everywhere. -/
abbrev BufferZero (s : State) : Prop := ∀ k < nBytes, s.buf.read k = 0x00#8

/-- R160, the column "recorded": what the registers hold of a failed attempt, by kind. -/
abbrev FailureRecord (s : State) : Prop :=
  (s.status = Stat.noResponse → s.bitn = 0#6 ∧ BufferZero s) ∧
  (s.status = Stat.invalidHandshake → s.bitn = 0#6 ∧ BufferZero s) ∧
  (s.status = Stat.checksumMismatch → s.bitn = 39#6 ∧ checksum s.buf ≠ fieldC s.buf) ∧
  (s.status = Stat.timeout → s.errState = 0x5#4 → s.bitn = 0#6 ∧ BufferZero s)

/-- R41 whole. -/
abbrev SpecInvariant (s : State) : Prop := ReportConsistent s ∧ PresentedFrameMatches s ∧ CodesInRange s

/-- Everything the spec says of every tick reached from a reset step, and the memory's canonical form. -/
abbrev SafeState (s : State) : Prop :=
  s.cfg.legal = true ∧ SpecInvariant s ∧ CntInRange s ∧ OutcomeIsPair s ∧ BufferProgress s ∧ FailureRecord s ∧ s.buf.wf

/-- A launch state (R183): `ResetState` under any legal configuration, at any tick number, before any inputs. -/
def launchState (c : Config) (n : Nat) (inputs : List Inputs) : State :=
  { State.reset with cfg := c, tick := n, pending := inputs }

/-! ## What a tick leaves unchanged -/

/-- `bitn` and every byte of the buffer are unchanged. -/
abbrev SameSession (s t : State) : Prop := t.bitn = s.bitn ∧ ∀ a, t.buf.read a = s.buf.read a

/-- `done`, `status` and `err_state` are unchanged. -/
abbrev SameReport (s t : State) : Prop := t.done = s.done ∧ t.status = s.status ∧ t.errState = s.errState

/-- The measurement registers are unchanged. -/
abbrev SameMeasurement (s t : State) : Prop := t.mHum = s.mHum ∧ t.mTmag = s.mTmag ∧ t.mTneg = s.mTneg

/-- The configuration and the inputs, which are no registers, are unchanged. -/
abbrev SameEnvironment (s t : State) : Prop := t.cfg = s.cfg ∧ t.tick = s.tick ∧ t.pending = s.pending

/-! ## Which state may follow which (R26) -/

/-- The states a tick without a reset may leave the block in. -/
def followers (st : StateCode) : List StateCode :=
  if st = St.idle then [St.idle, St.startLow]
  else if st = St.startLow then [St.startLow, St.startHigh]
  else if st = St.startHigh then [St.startHigh, St.respSettle]
  else if st = St.respSettle then [St.respSettle, St.respLow, St.idle]
  else if st = St.respLow then [St.respLow, St.respWaitLow, St.idle]
  else if st = St.respWaitLow then [St.respWaitLow, St.bitWaitHigh, St.idle]
  else if st = St.bitWaitHigh then [St.bitWaitHigh, St.bitSample, St.idle]
  else if st = St.bitSample then [St.bitSample, St.bitWaitLow]
  else if st = St.bitWaitLow then [St.bitWaitLow, St.bitWaitHigh, St.check, St.idle]
  else if st = St.check then [St.idle]
  else []

/-! ## Byte assembly (R136) -/

/-- The value of the first `c` bits of byte `k`, where bit `j` of the frame is `bits j`, the first the most significant. -/
def firstBits (bits : Nat → Bool) (k : Nat) : Nat → Nat
  | 0 => 0
  | c + 1 => 2 * firstBits bits k c + (bits (8 * k + c)).toNat

/-- The buffer holds exactly the bits sliced so far. -/
def BufferHolds (bits : Nat → Bool) (s : State) : Prop :=
  ∀ k < nBytes, (s.buf.read k).toNat = firstBits bits k (acquiredIn s k)

/-! ## Attempt timing, in ticks from the tick that accepts the READ -/

/-- The last tick of START_HIGH: `T_START_LOW + T_RELEASE_HIGH` (R164's `B`). -/
def releaseTick (c : Config) : Nat := c.tStartLow + c.tReleaseHigh

/-- The presence sample tick `ts` (R124). -/
def presenceTick (c : Config) : Nat := releaseTick c + c.tRespSettle

/-- The acknowledgment sample tick. -/
def ackTick (c : Config) : Nat := presenceTick c + c.tRespLow

/-- `N_MIN` (R95). -/
def nMin (c : Config) : Nat :=
  1 + c.tStartLow + c.tReleaseHigh + c.tRespSettle + c.tRespLow + 1 + 40 * (1 + c.tBitSample + 1) + 1

/-- `N_MAX` (R95). An attempt that ends in CHECKSUM_MISMATCH can take as many (assumption 14). -/
def nMax (c : Config) : Nat :=
  1 + c.tStartLow + c.tReleaseHigh + c.tRespSettle + c.tRespLow + c.tEdgeTimeout
    + 40 * (c.tEdgeTimeout + c.tBitSample + c.tEdgeTimeout) + 1

/-- The tick at which BIT_WAIT_LOW exits for a clean high pulse that rises at `r` and is `w` ticks wide (R134, R137): the first
tick after the sample at which the line is low. -/
def fallTick (c : Config) (r w : Nat) : Nat := r + max w (c.tBitSample + 1)

/-- One clean high pulse (R134): the line is low until it rises at `r`, within the bound of BIT_WAIT_HIGH, is high for `w` ticks,
and is low from then through the sample tick `r + T_BIT_SAMPLE`. -/
abbrev CleanPulse (s : State) (r w : Nat) : Prop :=
  r < s.cfg.tEdgeTimeout ∧ 1 ≤ w ∧ (∀ x < r, s.lineAt x = false) ∧ (∀ x < r + w, r ≤ x → s.lineAt x = true) ∧
  ∀ x < r + s.cfg.tBitSample + 1, r + w ≤ x → s.lineAt x = false

/-- One clean bit on the line: BIT_WAIT_HIGH is current from tick `e`; the line stays low until it rises at `r` within the
bound, stays high for `w` ticks, and is low from then through the tick at which BIT_WAIT_LOW exits, within the bound. -/
abbrev CleanBit (s : State) (e r w : Nat) : Prop :=
  e ≤ r ∧ r < e + s.cfg.tEdgeTimeout ∧ 1 ≤ w ∧ w ≤ s.cfg.tBitSample + s.cfg.tEdgeTimeout ∧
  (∀ x < r, e ≤ x → s.lineAt x = false) ∧
  (∀ x < r + w, r ≤ x → s.lineAt x = true) ∧
  (∀ x < fallTick s.cfg r w + 1, r + w ≤ x → s.lineAt x = false)

/-- The tick from which BIT_WAIT_HIGH of bit `j` is current (R137, R192): after RESP_WAIT_LOW exits at `u` for bit 0, after
BIT_WAIT_LOW of bit `j - 1` exits otherwise. -/
def bitEntry (c : Config) (u : Nat) (r w : Nat → Nat) : Nat → Nat
  | 0 => u + 1
  | j + 1 => fallTick c (r j) (w j) + 1

/-- The handshake of R124, RESP_WAIT_LOW exiting at tick `u`. -/
abbrev HandshakeAt (s : State) (u : Nat) : Prop :=
  s.lineAt (presenceTick s.cfg) = false ∧ s.lineAt (ackTick s.cfg) = true ∧
  ackTick s.cfg < u ∧ u ≤ ackTick s.cfg + s.cfg.tEdgeTimeout ∧
  (∀ x < u, ackTick s.cfg < x → s.lineAt x = true) ∧ s.lineAt u = false

end Sys2Proof.Machine
end

