-- ==== Sys2Proof/Certificates/Slice0/Obligations.lean ====
section
/-! DEFINITION. The statements for the provers. Where a statement ranges over states no run reaches, its premises are the
register ranges of R24, R27 and R28, which `StepKeepsEverySafetyInvariant` states of every step. -/

open Sys2Proof Sys2Proof.Machine

/-! ## Encodings -/

/-- R74 and R78: decoding the encoding of any row gives the row back, with every operand, on the command word and on the byte. -/
def Obligations.DecodeOfEncodeIsTheRow : Prop :=
  ∀ i : Instr, i.wf = true → decodeWord (encode i) = .ok i ∧ decodeByte (encodeByte i) = .ok i

/-- R75, R78, R81: a command word decodes to a row that encodes to that very word, or it is rejected by name; it is rejected
exactly when `rst = 0` and the state code is one of 0xA to 0xF, and a byte also when one of its two high bits is set. -/
def Obligations.EveryWordIsOneRowOrReserved : Prop :=
  (∀ (w : CommandWord) (i : Instr), decodeWord w = .ok i → encode i = w) ∧
  (∀ (w : CommandWord) (c : StateCode), decodeWord w = .error (.reservedState c) ↔
    wordRst w = false ∧ wordSt w = c ∧ 0xA ≤ c.toNat) ∧
  (∀ b : Byte, 64 ≤ b.toNat ↔ decodeByte b = .error (.highBits b))

/-- Words of the opcode table written out bit by bit (R74, R78) decode to the rows they stand for. -/
def Obligations.TableWordsDecodeToTheirRows : Prop :=
  decodeWord 0b000000#6 = .ok .idle ∧ decodeWord 0b000001#6 = .ok (.startLow false) ∧
  decodeWord 0b000101#6 = .ok (.respWaitLow false) ∧ decodeWord 0b000111#6 = .ok (.bitSample false) ∧
  decodeWord 0b001001#6 = .ok (.check false) ∧ decodeWord 0b010000#6 = .ok .read ∧
  decodeWord 0b100000#6 = .ok (.reset false 0b0000#4) ∧ decodeWord 0b111100#6 = .ok (.reset true 0b1100#4) ∧
  decodeWord 0b001010#6 = .error (.reservedState 0b1010#4)

/-- R76, R81 and R160: the six status codes decode to their meanings, the four error kinds have the codes 2 to 5, and 6 and 7
decode to nothing. -/
def Obligations.StatusCodesDecode : Prop :=
  decodeStatus 0#3 = some .none ∧ decodeStatus 1#3 = some .ok ∧
  (∀ k : ErrorKind, decodeStatus (errorCode k) = some (.failed k)) ∧
  errorCode .noResponse = 2#3 ∧ errorCode .invalidHandshake = 3#3 ∧ errorCode .checksumMismatch = 4#3 ∧
  errorCode .timeout = 5#3 ∧
  ∀ c : StatusCode, decodeStatus c = none ↔ c = 6#3 ∨ c = 7#3

/-! ## Reset and the step -/

/-- R40: the reset values of every register and the outputs that follow from them. The configuration (REF, assumption 2), the
tick number and the empty input list are the model's own. -/
def Obligations.ResetStateHoldsTheResetValues : Prop :=
  State.reset.st = 0x0#4 ∧ State.reset.cnt = 0 ∧ State.reset.bitn = 0#6 ∧
  (∀ k < nBytes, State.reset.buf.read k = 0x00#8) ∧ State.reset.done = false ∧ State.reset.status = 0#3 ∧
  State.reset.errState = 0x0#4 ∧ State.reset.mHum = 0x0000#16 ∧ State.reset.mTmag = 0#15 ∧ State.reset.mTneg = false ∧
  State.reset.outputs.lineOe = false ∧ State.reset.outputs.lineOut = true ∧ State.reset.outputs.linePu = true ∧
  State.reset.outputs.busy = false ∧ State.reset.outputs.humTenths = 0 ∧ State.reset.outputs.tempNeg = false ∧
  State.reset.outputs.tempMag = 0 ∧ State.reset.outputs.tempTenths = 0 ∧ State.reset.outputs.humInt = 0 ∧
  State.reset.outputs.humFrac = 0 ∧ State.reset.outputs.tempInt = 0 ∧ State.reset.outputs.tempFrac = 0

/-- R180: RESET gives every register its reset value, whatever the state and the other inputs are; a tick with `rst = 1` is that
reset step, and every output then has its reset value. -/
def Obligations.ResetStepGivesTheResetState : Prop :=
  (∀ (b : Bool) (c : StateCode) (s : State), exec (.reset b c) s =
    .next { s with st := 0x0#4, cnt := 0, bitn := 0#6, buf := [], done := false, status := 0#3, errState := 0x0#4,
                   mHum := 0#16, mTmag := 0#15, mTneg := false }) ∧
  (∀ s : State, s.cfg.legal = true → s.input.rst = true →
    step s = .next (launchState s.cfg (s.tick + 1) s.pending.tail) ∧
    (launchState s.cfg (s.tick + 1) s.pending.tail).outputs = State.reset.outputs)

/-- A STEP RUNS THE DECODED ROW (R90): under a legal configuration, when `{rst, start, st}` decodes to `i`, `exec i` answers a
next state, and the step answers that state with the tick number one higher and the next tick's inputs up. -/
def Obligations.StepRunsTheDecodedRow : Prop :=
  ∀ (s : State) (i : Instr), s.cfg.legal = true → i.wf = true →
    decodeWord (packWord s.input.rst s.input.start s.st) = .ok i →
    ∃ t, exec i s = .next t ∧ step s = .next { t with tick := t.tick + 1, pending := t.pending.tail }

/-- R75 and R165: with `rst = 0` a reserved state code stops a step with the fault `reservedState`, and no other code does;
with `rst = 1` a reserved code is reset like any other. -/
def Obligations.ReservedStateFaultsUnlessReset : Prop :=
  (∀ s : State, s.cfg.legal = true → (step s = .fault .reservedState ↔ s.input.rst = false ∧ 0xA ≤ s.st.toNat)) ∧
  (∀ s : State, s.cfg.legal = true → 0xA ≤ s.st.toNat → s.input.rst = true →
    step s = .next (launchState s.cfg (s.tick + 1) s.pending.tail))

/-- R5 and R162: a configuration is legal exactly when its six durations are at least 1 and at most `2^W_CNT` and `TICK_US` is greater
than 0, and meant for a real sensor when besides `T_START_LOW * TICK_US >= 1000`; the step refuses an illegal one, and refuses
no legal one. That it refuses at every tick, one with `rst = 1` included, is the model's choice (assumption 8). -/
def Obligations.IllegalConfigurationIsRefused : Prop :=
  (∀ c : Config, c.legal = true ↔
    (1 ≤ c.tStartLow ∧ 1 ≤ c.tReleaseHigh ∧ 1 ≤ c.tRespSettle ∧ 1 ≤ c.tRespLow ∧ 1 ≤ c.tBitSample ∧ 1 ≤ c.tEdgeTimeout) ∧
    (c.tStartLow ≤ 2 ^ c.wCnt ∧ c.tReleaseHigh ≤ 2 ^ c.wCnt ∧ c.tRespSettle ≤ 2 ^ c.wCnt ∧ c.tRespLow ≤ 2 ^ c.wCnt ∧
      c.tBitSample ≤ 2 ^ c.wCnt ∧ c.tEdgeTimeout ≤ 2 ^ c.wCnt) ∧ 0 < c.tickUs) ∧
  (∀ c : Config, c.drivesDevice = true ↔ c.legal = true ∧ 1000 ≤ c.tStartLow * c.tickUs) ∧
  (∀ s : State, s.cfg.legal = false → step s = .refused .illegalConfiguration) ∧
  (∀ (s : State) (r : Refusal), s.cfg.legal = true → step s ≠ .refused r)

/-! ## The state rules -/

/-- R96: IDLE with `start = 0` changes no register; READ clears the buffer, `bitn`, the report and the measurement and enters
START_LOW, which drives the line; it stays released while IDLE is current, and `start` with `rst` is a reset. -/
def Obligations.ReadClearsAndStartsAndIdleKeeps : Prop :=
  (∀ s : State, exec .idle s = .next s) ∧
  (∀ s : State, ∃ t, exec .read s = .next t ∧ (∀ k < nBytes, t.buf.read k = 0x00#8) ∧ t.bitn = 0#6 ∧ t.done = false ∧
    t.status = 0#3 ∧ t.errState = 0x0#4 ∧ t.mHum = 0x0000#16 ∧ t.mTmag = 0#15 ∧ t.mTneg = false ∧ t.st = 0x1#4 ∧ t.cnt = 0 ∧
    t.outputs.lineOe = true ∧ t.outputs.lineOut = false ∧ SameEnvironment s t) ∧
  (∀ s : State, s.st = 0x0#4 → decodeWord (packWord false true s.st) = .ok .read ∧
    decodeWord (packWord false false s.st) = .ok .idle ∧ decodeWord (packWord true true s.st) = .ok (.reset true s.st) ∧
    s.outputs.lineOe = false ∧ s.outputs.linePu = true)

/-- R110 and R111: START_LOW drives the line low and START_HIGH drives it high, each for its duration; neither reads the line. -/
def Obligations.LineReservationCountsThenMovesOn : Prop :=
  (∀ (b : Bool) (s : State), s.cfg.legal = true → s.st = 0x1#4 → s.cnt < s.cfg.tStartLow →
    exec (.startLow b) s =
      .next (if s.cnt = s.cfg.tStartLow - 1 then { s with st := 0x2#4, cnt := 0 } else { s with cnt := s.cnt + 1 }) ∧
    s.outputs.lineOe = true ∧ s.outputs.lineOut = false ∧ s.outputs.linePu = false) ∧
  (∀ (b : Bool) (s : State), s.cfg.legal = true → s.st = 0x2#4 → s.cnt < s.cfg.tReleaseHigh →
    exec (.startHigh b) s =
      .next (if s.cnt = s.cfg.tReleaseHigh - 1 then { s with st := 0x3#4, cnt := 0 } else { s with cnt := s.cnt + 1 }) ∧
    s.outputs.lineOe = true ∧ s.outputs.lineOut = true ∧ s.outputs.linePu = false)

/-- R120: RESP_SETTLE, the presence sample at the last tick. -/
def Obligations.RespSettleSamplesPresence : Prop :=
  ∀ (b : Bool) (s : State), s.cfg.legal = true → s.st = 0x3#4 → s.cnt < s.cfg.tRespSettle →
    exec (.respSettle b) s =
      .next (if s.cnt = s.cfg.tRespSettle - 1 then
          if s.input.lineIn = true then { s with status := 2#3, errState := 0x3#4, done := true, st := 0x0#4, cnt := 0 }
          else { s with st := 0x4#4, cnt := 0 }
        else { s with cnt := s.cnt + 1 }) ∧
    s.outputs.lineOe = false ∧ s.outputs.linePu = true

/-- R121: RESP_LOW, the acknowledgment sample at the last tick. -/
def Obligations.RespLowSamplesAcknowledgment : Prop :=
  ∀ (b : Bool) (s : State), s.cfg.legal = true → s.st = 0x4#4 → s.cnt < s.cfg.tRespLow →
    exec (.respLow b) s =
      .next (if s.cnt = s.cfg.tRespLow - 1 then
          if s.input.lineIn = false then { s with status := 3#3, errState := 0x4#4, done := true, st := 0x0#4, cnt := 0 }
          else { s with st := 0x5#4, cnt := 0 }
        else { s with cnt := s.cnt + 1 }) ∧
    s.outputs.lineOe = false ∧ s.outputs.linePu = true

/-- R122: RESP_WAIT_LOW polls for 0; the level comes before the timeout. -/
def Obligations.RespWaitLowPollsForTheFall : Prop :=
  ∀ (b : Bool) (s : State), s.cfg.legal = true → s.st = 0x5#4 → s.cnt < s.cfg.tEdgeTimeout →
    exec (.respWaitLow b) s =
      .next (if s.input.lineIn = false then { s with st := 0x6#4, cnt := 0 }
        else if s.cnt = s.cfg.tEdgeTimeout - 1 then
          { s with status := 5#3, errState := 0x5#4, done := true, st := 0x0#4, cnt := 0 }
        else { s with cnt := s.cnt + 1 }) ∧
    s.outputs.lineOe = false ∧ s.outputs.linePu = true

/-- R131: BIT_WAIT_HIGH polls for 1; the level comes before the timeout. -/
def Obligations.BitWaitHighPollsForTheRise : Prop :=
  ∀ (b : Bool) (s : State), s.cfg.legal = true → s.st = 0x6#4 → s.cnt < s.cfg.tEdgeTimeout →
    exec (.bitWaitHigh b) s =
      .next (if s.input.lineIn = true then { s with st := 0x7#4, cnt := 0 }
        else if s.cnt = s.cfg.tEdgeTimeout - 1 then
          { s with status := 5#3, errState := 0x6#4, done := true, st := 0x0#4, cnt := 0 }
        else { s with cnt := s.cnt + 1 }) ∧
    s.outputs.lineOe = false ∧ s.outputs.linePu = true

/-- R133: BIT_SAMPLE shifts the line's level at its last tick into `buf[bitn / 8]`, the other bytes reading as before. -/
def Obligations.BitSampleShiftsTheLevelIntoItsByte : Prop :=
  ∀ (b : Bool) (s : State), s.cfg.legal = true → s.st = 0x7#4 → s.cnt < s.cfg.tBitSample → s.bitn.toNat ≤ 39 →
    (s.cnt = s.cfg.tBitSample - 1 → ∃ m : Memory, exec (.bitSample b) s = .next { s with buf := m, st := 0x8#4, cnt := 0 } ∧
      (m.read (s.bitn.toNat / 8)).toNat =
        (((s.buf.read (s.bitn.toNat / 8)).toNat <<< 1) ||| s.input.lineIn.toNat) % 256 ∧
      ∀ a, a ≠ s.bitn.toNat / 8 → m.read a = s.buf.read a) ∧
    (s.cnt ≠ s.cfg.tBitSample - 1 → exec (.bitSample b) s = .next { s with cnt := s.cnt + 1 }) ∧
    s.outputs.lineOe = false ∧ s.outputs.linePu = true

/-- R135: BIT_WAIT_LOW polls for 0 and goes to the next bit, or to CHECK after bit 39. -/
def Obligations.BitWaitLowGoesToTheNextBitOrCheck : Prop :=
  ∀ (b : Bool) (s : State), s.cfg.legal = true → s.st = 0x8#4 → s.cnt < s.cfg.tEdgeTimeout → s.bitn.toNat ≤ 39 →
    exec (.bitWaitLow b) s =
      .next (if s.input.lineIn = false then
          if s.bitn = 39#6 then { s with st := 0x9#4, cnt := 0 } else { s with bitn := s.bitn + 1, st := 0x6#4, cnt := 0 }
        else if s.cnt = s.cfg.tEdgeTimeout - 1 then
          { s with status := 5#3, errState := 0x8#4, done := true, st := 0x0#4, cnt := 0 }
        else { s with cnt := s.cnt + 1 }) ∧
    (s.bitn ≠ 39#6 → (s.bitn + 1).toNat = s.bitn.toNat + 1) ∧ s.outputs.lineOe = false ∧ s.outputs.linePu = true

/-- R141: CHECK presents the decoded Measurement when the truncated sum of the data bytes is `buf[4]`, and fails with
CHECKSUM_MISMATCH otherwise. -/
def Obligations.CheckValidatesThenPresentsOrFails : Prop :=
  ∀ (b : Bool) (s : State), s.st = 0x9#4 →
    exec (.check b) s =
      .next (if ((s.buf.read 0).toNat + (s.buf.read 1).toNat + (s.buf.read 2).toNat + (s.buf.read 3).toNat) % 256
            = (s.buf.read 4).toNat then
          { s with mHum := decodeHum s.buf, mTmag := decodeTmag s.buf, mTneg := decodeTneg s.buf, done := true,
                   status := 1#3, st := 0x0#4, cnt := 0 }
        else { s with status := 4#3, errState := 0x9#4, done := true, st := 0x0#4, cnt := 0 }) ∧
    s.outputs.lineOe = false ∧ s.outputs.linePu = true

/-- R163: the failure procedure records the kind and the failing state, goes to IDLE and changes nothing else; from the next
tick the block is not busy and the line is released. -/
def Obligations.FailRecordsTheKindAndTheState : Prop :=
  ∀ (k : ErrorKind) (s : State), raiseFail k s =
      .next { s with status := errorCode k, errState := s.st, done := true, st := 0x0#4, cnt := 0 } ∧
    ∀ t, raiseFail k s = .next t → t.outputs.busy = false ∧ t.outputs.done = true ∧ t.outputs.status = errorCode k ∧
      t.outputs.lineOe = false ∧ t.outputs.linePu = true ∧
      (MeasurementZero s → t.outputs.humTenths = 0 ∧ t.outputs.tempNeg = false ∧ t.outputs.tempMag = 0 ∧
        t.outputs.tempTenths = 0 ∧ t.outputs.humInt = 0 ∧ t.outputs.humFrac = 0 ∧ t.outputs.tempInt = 0 ∧
        t.outputs.tempFrac = 0)

/-- R162, R161 and D1: every row answers a next state in every state, and the one fault of a step is a reserved state code. The
model's own choices in states that no run reaches: BIT_SAMPLE with `bitn` of 40 to 63 goes on and stores to no byte
(assumption 5), and BIT_WAIT_LOW with `bitn = 63` goes on with 0 (assumption 13). -/
def Obligations.NothingStopsButAReservedState : Prop :=
  (∀ (i : Instr) (s : State), ∃ t, exec i s = .next t) ∧
  (∀ (s : State) (r : Fault), step s = .fault r →
    r = .reservedState ∧ s.cfg.legal = true ∧ s.input.rst = false ∧ 0xA ≤ s.st.toNat) ∧
  (∀ (b : Bool) (s : State), 40 ≤ s.bitn.toNat → s.cnt + 1 = s.cfg.tBitSample →
    exec (.bitSample b) s = .next { s with st := 0x8#4, cnt := 0 }) ∧
  (∀ (b : Bool) (s : State), s.bitn = 63#6 → s.lineIn = false →
    exec (.bitWaitLow b) s = .next { s with bitn := 0#6, st := 0x6#4, cnt := 0 })

/-! ## Frames -/

/-- IDLE, START_LOW and START_HIGH change `st` and `cnt` only; the handshake states and BIT_WAIT_HIGH besides change the report
where they fail (R163), which sets `done` and goes to IDLE. None of them stores anything: every byte reads as before. -/
def Obligations.StatesThatStoreNothingFrame : Prop :=
  (∀ (i : Instr) (s t : State), (i = .idle ∨ (∃ b, i = .startLow b) ∨ ∃ b, i = .startHigh b) → exec i s = .next t →
    SameSession s t ∧ SameReport s t ∧ SameMeasurement s t ∧ SameEnvironment s t) ∧
  (∀ (i : Instr) (s t : State),
    ((∃ b, i = .respSettle b) ∨ (∃ b, i = .respLow b) ∨ (∃ b, i = .respWaitLow b) ∨ ∃ b, i = .bitWaitHigh b) →
    exec i s = .next t →
    SameSession s t ∧ SameMeasurement s t ∧ SameEnvironment s t ∧
    (SameReport s t ∨ (t.done = true ∧ t.errState = s.st ∧ t.st = St.idle)))

/-- BIT_WAIT_LOW changes `st` and `cnt`, `bitn` only where it goes to the next bit, and the report only where it fails; it
stores nothing. The new `bitn` is `bitn + 1` in its 6 bits; that this is 0 for 63, which no run reaches, is the model's choice
(assumption 13). -/
def Obligations.BitWaitLowFrame : Prop :=
  ∀ (b : Bool) (s t : State), exec (.bitWaitLow b) s = .next t →
    (∀ a, t.buf.read a = s.buf.read a) ∧ SameMeasurement s t ∧ SameEnvironment s t ∧
    ((t.bitn = s.bitn ∧ SameReport s t) ∨
     (t.bitn = s.bitn + 1 ∧ t.st = St.bitWaitHigh ∧ s.bitn ≠ 39#6 ∧ SameReport s t) ∨
     (t.bitn = s.bitn ∧ t.done = true ∧ t.errState = s.st ∧ t.st = St.idle))

/-- BIT_SAMPLE changes `st`, `cnt` and at most the byte `bitn / 8` of the buffer: every other byte reads as before. -/
def Obligations.BitSampleFrame : Prop :=
  ∀ (b : Bool) (s t : State), exec (.bitSample b) s = .next t →
    t.bitn = s.bitn ∧ SameReport s t ∧ SameMeasurement s t ∧ SameEnvironment s t ∧
    (∀ k, s.byteIndex = k → ∀ a, a ≠ k → t.buf.read a = s.buf.read a) ∧
    (s.cnt + 1 ≠ s.cfg.tBitSample → ∀ a, t.buf.read a = s.buf.read a)

/-- CHECK stores nothing and leaves `bitn` alone; on success it leaves `err_state` alone, on failure the measurement registers. -/
def Obligations.CheckFrame : Prop :=
  ∀ (b : Bool) (s t : State), exec (.check b) s = .next t →
    SameSession s t ∧ SameEnvironment s t ∧ t.st = St.idle ∧ t.cnt = 0 ∧ t.done = true ∧
    (t.status = Stat.ok → t.errState = s.errState) ∧ (t.status ≠ Stat.ok → SameMeasurement s t)

/-! ## The datapath -/

/-- R142: the exact sum lies in 0 to 1020, the checksum is its low 8 bits, and CHECK compares two 8-bit values. -/
def Obligations.ChecksumIsTheTruncatedSum : Prop :=
  ∀ m : Memory, exactSum m = (m.read 0).toNat + (m.read 1).toNat + (m.read 2).toNat + (m.read 3).toNat ∧
    exactSum m ≤ 1020 ∧ (checksum m).toNat = exactSum m % 256 ∧ (checksum m = fieldC m ↔ (checksum m).toNat = (m.read 4).toNat)

/-- R144 and R145: the humidity is `buf[0] * 256 + buf[1]`, unsigned. The temperature magnitude is the low 15 bits of
`buf[2] * 256 + buf[3]`, and the sign is its bit 15, except that a negative zero is presented as +0, the port `raw2` staying 0x80. -/
def Obligations.FieldsDecodeUnsignedAndSignMagnitude : Prop :=
  ∀ m : Memory, (decodeHum m).toNat = (m.read 0).toNat * 256 + (m.read 1).toNat ∧ (decodeHum m).toNat ≤ 65535 ∧
    (decodeTmag m).toNat = ((m.read 2).toNat * 256 + (m.read 3).toNat) % 2 ^ 15 ∧
    (decodeTmag m).toNat = ((m.read 2).toNat * 256 + (m.read 3).toNat) &&& 0x7FFF ∧ (decodeTmag m).toNat ≤ 32767 ∧
    (decodeTneg m = true ↔ (m.read 2).getLsbD 7 = true ∧ (decodeTmag m).toNat ≠ 0) ∧
    (fieldT m = 0x8000#16 → decodeTneg m = false ∧ decodeTmag m = 0 ∧ tempTenths (decodeTneg m) (decodeTmag m) = 0 ∧
      ∀ s : State, s.buf = m → s.outputs.raw2 = 0x80#8)

/-- R146: `temp_tenths` read as two's complement is `-m_tmag` or `+m_tmag`; it is never 0x8000, and for a decoded buffer it is 0
only for the value +0. -/
def Obligations.TempTenthsIsTheSignedValue : Prop :=
  (∀ m : Mag15, (tempTenths false m).toNat = m.toNat ∧ (tempTenths true m).toNat = (2 ^ 16 - m.toNat) % 2 ^ 16 ∧
    (tempTenths false m).toInt = (m.toNat : Int) ∧ (tempTenths true m).toInt = -(m.toNat : Int) ∧
    tempTenths false m ≠ 0x8000#16 ∧ tempTenths true m ≠ 0x8000#16) ∧
  (∀ m : Memory, (decodeTneg m = true → 1 ≤ (decodeTmag m).toNat) ∧
    (tempTenths (decodeTneg m) (decodeTmag m) = 0 ↔ decodeTneg m = false ∧ decodeTmag m = 0))

/-- R147: the scaler splits a magnitude exactly into its quotient and remainder by 10, each in its port's width. -/
def Obligations.ScalerSplitsTenthsExactly : Prop :=
  ∀ s : State,
    s.outputs.humInt.toNat = s.mHum.toNat / 10 ∧ s.outputs.humFrac.toNat = s.mHum.toNat % 10 ∧
    s.outputs.tempInt.toNat = s.mTmag.toNat / 10 ∧ s.outputs.tempFrac.toNat = s.mTmag.toNat % 10 ∧
    s.mHum.toNat = 10 * s.outputs.humInt.toNat + s.outputs.humFrac.toNat ∧
    s.mTmag.toNat = 10 * s.outputs.tempInt.toNat + s.outputs.tempFrac.toNat ∧
    s.outputs.humInt.toNat ≤ 6553 ∧ s.outputs.humFrac.toNat ≤ 9 ∧ s.outputs.tempInt.toNat ≤ 3276 ∧
    s.outputs.tempFrac.toNat ≤ 9

/-- R148: the five bytes a sensor sends for a humidity of `hum` tenths and a temperature of `mag` tenths with the sign `neg`
pass CHECK, and the host sees exactly those tenths, a negative zero as +0. -/
def Obligations.MeasurementRoundTrips : Prop :=
  ∀ (b neg : Bool) (hum mag : Nat) (s : State), hum ≤ 65535 → mag ≤ 32767 →
    (∀ k < nBytes, s.buf.read k = (encodeMeasurement hum neg mag).getD k 0x00#8) →
    ∃ t, exec (.check b) s = .next t ∧ t.status = Stat.ok ∧ t.done = true ∧
      10 * t.outputs.humInt.toNat + t.outputs.humFrac.toNat = hum ∧
      10 * t.outputs.tempInt.toNat + t.outputs.tempFrac.toNat = mag ∧
      t.outputs.tempNeg = (neg && decide (mag ≠ 0)) ∧
      t.outputs.tempTenths.toInt = (if neg then -(mag : Int) else (mag : Int))

/-- R53, R70 and R79: the frame's bytes and derived fields are the buffer's: `H = F[39:24]`, `T = F[23:8]`, `S = F[23]`,
`M = F[22:8]`, `C = F[7:0]`. -/
def Obligations.FrameFieldsAreTheBuffers : Prop :=
  ∀ m : Memory, (∀ k < nBytes, frameByte (frameOf m) k = m.read k) ∧
    fieldH m = (frameOf m).extractLsb' 24 16 ∧ fieldT m = (frameOf m).extractLsb' 8 16 ∧
    fieldS m = (frameOf m).getLsbD 23 ∧ fieldM m = (frameOf m).extractLsb' 8 15 ∧ fieldC m = (frameOf m).extractLsb' 0 8

/-! ## Outputs -/

/-- R34: the line outputs are the table's function of `st`, `line_pu` is the opposite of `line_oe`, and `busy` is 1
exactly outside IDLE. -/
def Obligations.LineOutputsFollowTheState : Prop :=
  (∀ st : StateCode, (st = 0x1#4 → lineOe st = true ∧ lineOut st = false ∧ linePu st = false) ∧
    (st = 0x2#4 → lineOe st = true ∧ lineOut st = true ∧ linePu st = false) ∧
    (st ≠ 0x1#4 → st ≠ 0x2#4 → lineOe st = false ∧ lineOut st = true ∧ linePu st = true)) ∧
  (∀ s : State, s.outputs.lineOe = lineOe s.st ∧ s.outputs.lineOut = lineOut s.st ∧ s.outputs.linePu = !s.outputs.lineOe ∧
    (s.outputs.busy = true ↔ s.st ≠ 0x0#4))

/-- R37 and R81: the host sees a Measurement exactly when `done = 1` and `status = OK`, an error of a kind exactly when `done = 1`
and `status` is its code, nothing when `done = 0`, and the model faults exactly on a reserved code. -/
def Obligations.HostViewFollowsDoneAndStatus : Prop :=
  ∀ s : State,
    (∀ h m n, s.hostView = .ok (.measurement h m n) ↔
      s.done = true ∧ s.status = 1#3 ∧ h = s.mHum ∧ m = s.mTmag ∧ n = s.mTneg) ∧
    (∀ k, s.hostView = .ok (.error k) ↔ s.done = true ∧ s.status = errorCode k) ∧
    (s.done = false → s.status.toNat ≤ 5 → s.hostView = .ok .noResult) ∧
    (∀ r, s.hostView = .error r ↔ r = .reservedStatus ∧ 6 ≤ s.status.toNat)

/-- R36 and R186: while an attempt is running, and after any attempt that did not succeed, every measurement output is 0. -/
def Obligations.MeasurementOutputsAreZeroUnlessOk : Prop :=
  ∀ s : State, SpecInvariant s →
    (s.outputs.busy = true ∨ s.outputs.status ≠ 1#3) →
    s.outputs.humTenths = 0 ∧ s.outputs.tempNeg = false ∧ s.outputs.tempMag = 0 ∧ s.outputs.tempTenths = 0 ∧
    s.outputs.humInt = 0 ∧ s.outputs.humFrac = 0 ∧ s.outputs.tempInt = 0 ∧ s.outputs.tempFrac = 0

/-! ## Invariants -/

/-- R41 (a) to (f): they hold after a reset step under any legal configuration, and every step from a state that has them
keeps them. -/
def Obligations.StepKeepsTheInvariantsOfR41 : Prop :=
  (∀ (c : Config) (n : Nat) (p : List Inputs), c.legal = true → SpecInvariant (launchState c n p)) ∧
  (∀ s t : State, SpecInvariant s → step s = .next t → SpecInvariant t)

/-- R27, R28, R41, R77, R160 and the buffer's canonical form, over every state that has them all: a step keeps them. -/
def Obligations.StepKeepsEverySafetyInvariant : Prop :=
  ∀ s t : State, SafeState s → step s = .next t → SafeState t

/-- The launch state has every safety invariant, under any legal configuration (REF among them) and before any inputs. -/
def Obligations.LaunchStateIsSafe : Prop :=
  SafeState State.reset ∧ ∀ (c : Config) (n : Nat) (p : List Inputs), c.legal = true → SafeState (launchState c n p)

/-- R20 and R162: from a safe state no input stops the block: each failure is an ordinary outcome of a step. -/
def Obligations.SafeStatesNeverStop : Prop :=
  ∀ s : State, SafeState s → ∃ t, step s = .next t ∧ SafeState t

/-- R26, R165: without a reset a step leaves `st` in one of the states its rule names, in stage order. -/
def Obligations.StatesFollowInStageOrder : Prop :=
  ∀ s t : State, step s = .next t → (s.input.rst = true ∧ t.st = St.idle) ∨ (s.input.rst = false ∧ t.st ∈ followers s.st)

/-- R27 and R93: a step that changes `st` leaves `cnt` at 0, one that stays in a busy state counts one tick, and `cnt` keeps to
the values of its state. -/
def Obligations.CounterClearsOnEveryTransition : Prop :=
  ∀ s t : State, s.cfg.legal = true → CntInRange s → step s = .next t →
    (t.st ≠ s.st → t.cnt = 0) ∧ (t.st = s.st → t.st ≠ St.idle → t.cnt = s.cnt + 1) ∧ t.cnt < cntBound t.cfg t.st

/-- R30, R31 and R32: the report changes only at READ acceptance, reset, a success of CHECK or a failure, each as its rule
says. -/
def Obligations.ReportIsWrittenOnlyByItsRules : Prop :=
  ∀ s t : State, step s = .next t → SameReport s t ∨
    (s.input.rst = true ∧ t.done = false ∧ t.status = Stat.none ∧ t.errState = 0x0#4) ∨
    (s.st = St.idle ∧ s.input.start = true ∧ t.done = false ∧ t.status = Stat.none ∧ t.errState = 0x0#4) ∨
    (s.st = St.check ∧ checksum s.buf = fieldC s.buf ∧ t.done = true ∧ t.status = Stat.ok ∧ t.errState = s.errState) ∨
    (∃ k : ErrorKind, t.st = St.idle ∧ t.done = true ∧ t.status = errorCode k ∧ t.errState = s.st ∧
      (k = .noResponse → s.st = 0x3#4) ∧ (k = .invalidHandshake → s.st = 0x4#4) ∧ (k = .checksumMismatch → s.st = 0x9#4) ∧
      (k = .timeout → s.st = 0x5#4 ∨ s.st = 0x6#4 ∨ s.st = 0x8#4))

/-- R33: the measurement registers are written all together and only by a success of CHECK; READ acceptance and reset clear all
three. -/
def Obligations.MeasurementIsWrittenOnlyByCheck : Prop :=
  ∀ s t : State, step s = .next t → SameMeasurement s t ∨
    (MeasurementZero t ∧ (s.input.rst = true ∨ (s.st = St.idle ∧ s.input.start = true))) ∨
    (s.st = St.check ∧ t.status = Stat.ok ∧ t.mHum = decodeHum s.buf ∧ t.mTmag = decodeTmag s.buf ∧ t.mTneg = decodeTneg s.buf)

/-- R29, R50 and R54: a step that changes byte `k` of the buffer is a reset, a READ acceptance, or the last tick of BIT_SAMPLE of
one of the bits `8k` to `8k + 7`. -/
def Obligations.ByteTakesOnlyItsEightBits : Prop :=
  ∀ (s t : State) (k : Nat), step s = .next t → t.buf.read k ≠ s.buf.read k →
    s.input.rst = true ∨ (s.st = St.idle ∧ s.input.start = true) ∨
    (s.st = St.bitSample ∧ s.cnt + 1 = s.cfg.tBitSample ∧ 8 * k ≤ s.bitn.toNat ∧ s.bitn.toNat ≤ 8 * k + 7 ∧ k < nBytes)

/-- R4 and R61: no step changes the configuration, and a tick brings up the next tick's inputs whatever the rule did. -/
def Obligations.ConfigurationNeverChanges : Prop :=
  ∀ s t : State, step s = .next t → t.cfg = s.cfg ∧ t.tick = s.tick + 1 ∧ ∀ n, t.inputAt n = s.inputAt (n + 1)

/-- The buffer keeps its canonical form through every step, and then equal contents are equal lists. -/
def Obligations.BufferStaysCanonical : Prop :=
  (∀ s t : State, s.buf.wf → step s = .next t → t.buf.wf) ∧
  (∀ m n : Memory, m.wf → n.wf → (∀ k < nBytes, m.read k = n.read k) → m = n)

/-- R136: whatever bits the line gives, the buffer holds exactly the bits sliced so far, first bit most significant: a step
that slices bit `bitn` as `bits bitn`, and every other step of a running attempt, keeps that. -/
def Obligations.BufferHoldsTheBitsSlicedSoFar : Prop :=
  ∀ (bits : Nat → Bool) (s t : State), SafeState s → s.busy = true → BufferHolds bits s → step s = .next t → t.busy = true →
    (s.st = St.bitSample → t.st = St.bitWaitLow → s.lineIn = bits s.bitn.toNat) → BufferHolds bits t

/-- R136 and R51: eight bits of a byte, shifted in from zero, are `sum over i of bit(8k+i) * 2^(7-i)`, the forty bits are the
frame `F = sum over j of bit(j) * 2^(39-j)`, and bit `j` stands at position `7 - j % 8` of byte `j / 8`. -/
def Obligations.FrameIsTheSumOfItsBits : Prop :=
  ∀ (bits : Nat → Bool) (m : Memory), (∀ k < nBytes, (m.read k).toNat = firstBits bits k 8) →
    (∀ k < nBytes, (m.read k).toNat = ∑ i ∈ Finset.range 8, (bits (8 * k + i)).toNat * 2 ^ (7 - i)) ∧
    (frameOf m).toNat = ∑ j ∈ Finset.range 40, (bits j).toNat * 2 ^ (39 - j) ∧
    ∀ j < nBits, (m.read (j / 8)).getLsbD (7 - j % 8) = bits j

/-- R94 and R140: a poll state is entered only after a sample of the opposite level, BIT_WAIT_LOW after BIT_SAMPLE whatever it
sampled; CHECK is entered only from BIT_WAIT_LOW with `bitn = 39`, and lasts one tick. -/
def Obligations.PollsAndCheckAreEnteredAsR94AndR140Say : Prop :=
  ∀ s t : State, step s = .next t →
    (t.st ≠ s.st → t.st = St.bitWaitHigh → s.lineIn = false ∧ (s.st = St.respWaitLow ∨ s.st = St.bitWaitLow)) ∧
    (t.st ≠ s.st → t.st = St.respWaitLow → s.lineIn = true ∧ s.st = St.respLow) ∧
    (t.st ≠ s.st → t.st = St.bitWaitLow → s.st = St.bitSample) ∧
    (t.st = St.check → s.st = St.bitWaitLow ∧ s.bitn = 39#6 ∧ t.bitn = 39#6 ∧ s.lineIn = false) ∧
    (s.st = St.check → t.st = St.idle)

/-! ## What a step does not depend on -/

/-- R97: at a tick with `st != IDLE`, or with `rst = 1`, `start` has no effect, and nothing of it is remembered. -/
def Obligations.StartIsIgnoredUnlessIdle : Prop :=
  ∀ (s : State) (i : Inputs) (b : Bool) (rest : List Inputs), (s.st ≠ St.idle ∨ i.rst = true) →
    step { s with pending := { i with start := b } :: rest } = step { s with pending := i :: rest }

/-- R91, R110, R111, R141 (and U10, U11): the line is not read in IDLE, START_LOW, START_HIGH and CHECK, nor at any tick of
RESP_SETTLE, RESP_LOW and BIT_SAMPLE but the last. -/
def Obligations.LineIsIgnoredUnlessSampled : Prop :=
  ∀ (s : State) (i : Inputs) (b : Bool) (rest : List Inputs),
    (s.st = St.idle ∨ s.st = St.startLow ∨ s.st = St.startHigh ∨ s.st = St.check ∨
      ((s.st = St.respSettle ∨ s.st = St.respLow ∨ s.st = St.bitSample) ∧ s.cnt + 1 ≠ cntBound s.cfg s.st)) →
    step { s with pending := { i with lineIn := b } :: rest } = step { s with pending := i :: rest }

/-- R38: no rule branches on `done` or `status`, nor on `err_state` or the measurement registers: with other values in them a
step does the same to `st`, `cnt`, `bitn` and `buf`, and stops in the same cases. -/
def Obligations.NoRuleBranchesOnTheReport : Prop :=
  ∀ (s : State) (d : Bool) (c : StatusCode) (e : StateCode) (h : Field16) (m : Mag15) (n : Bool),
    (∀ t, step s = .next t → ∃ u,
      step { s with done := d, status := c, errState := e, mHum := h, mTmag := m, mTneg := n } = .next u ∧
      u.st = t.st ∧ u.cnt = t.cnt ∧ u.bitn = t.bitn ∧ u.buf = t.buf ∧ SameEnvironment t u) ∧
    (∀ r, step s = .fault r →
      step { s with done := d, status := c, errState := e, mHum := h, mTmag := m, mTneg := n } = .fault r)

/-! ## Runs of many ticks, for every input -/

/-- R91: a timed state just entered is current for exactly its duration, its counter running 0, 1, up to the duration less 1,
and its exit action at the last of those ticks leaves it. -/
def Obligations.TimedStateLastsItsDuration : Prop :=
  ∀ s : State, s.cfg.legal = true → s.cnt = 0 →
    (s.st = St.startLow ∨ s.st = St.startHigh ∨ s.st = St.respSettle ∨ s.st = St.respLow ∨ s.st = St.bitSample) →
    NoReset s (cntBound s.cfg s.st) →
    (∀ k < cntBound s.cfg s.st,
      runFor k s = .next { s with cnt := k, tick := s.tick + k, pending := s.pending.drop k }) ∧
    ∃ t, runFor (cntBound s.cfg s.st) s = .next t ∧ t.st ≠ s.st ∧ t.cnt = 0

/-- R92: a poll state just entered exits at the first tick that shows its level (0 for RESP_WAIT_LOW and BIT_WAIT_LOW, 1 for
BIT_WAIT_HIGH), the last allowed tick included, and takes TIMEOUT at that last tick if none does. -/
def Obligations.PollEndsAtItsLevelOrTimesOut : Prop :=
  ∀ (s : State) (level : Bool), s.cfg.legal = true → s.cnt = 0 →
    ((s.st = St.respWaitLow ∧ level = false) ∨ (s.st = St.bitWaitHigh ∧ level = true) ∨
      (s.st = St.bitWaitLow ∧ level = false)) →
    NoReset s s.cfg.tEdgeTimeout →
    (∀ n < s.cfg.tEdgeTimeout, (∀ x < n, s.lineAt x ≠ level) → s.lineAt n = level →
      ∃ t, runFor (n + 1) s = .next t ∧ t.st ∈ followers s.st ∧ t.st ≠ s.st ∧ t.st ≠ St.idle ∧ t.cnt = 0 ∧ SameReport s t) ∧
    ((∀ x < s.cfg.tEdgeTimeout, s.lineAt x ≠ level) →
      ∃ t, runFor s.cfg.tEdgeTimeout s = .next t ∧ t.st = St.idle ∧ t.cnt = 0 ∧ t.done = true ∧ t.status = Stat.timeout ∧
        t.errState = s.st ∧ t.bitn = s.bitn ∧ t.buf = s.buf)

/-- R112: after a READ is accepted the line is driven low for `T_START_LOW` ticks, then high for `T_RELEASE_HIGH` ticks, and
from the tick after that it is released for as long as the attempt runs. -/
def Obligations.LineIsDrivenThenReleased : Prop :=
  ∀ s : State, AcceptsRead s → NoReset s (releaseTick s.cfg + 1) →
    (∀ k, 1 ≤ k → k ≤ s.cfg.tStartLow → ∃ t, runFor k s = .next t ∧ t.outputs.lineOe = true ∧ t.outputs.lineOut = false ∧
      t.outputs.linePu = false) ∧
    (∀ k, s.cfg.tStartLow < k → k ≤ releaseTick s.cfg → ∃ t, runFor k s = .next t ∧ t.outputs.lineOe = true ∧
      t.outputs.lineOut = true ∧ t.outputs.linePu = false) ∧
    (∃ t, runFor (releaseTick s.cfg + 1) s = .next t ∧ t.st = St.respSettle) ∧
    (∀ k t, releaseTick s.cfg < k → runFor k s = .next t →
      (∀ j u, releaseTick s.cfg < j → j < k → runFor j s = .next u → u.busy = true) →
      t.outputs.lineOe = false ∧ t.outputs.linePu = true)

/-- R124, the passing side: when the presence sample is 0, the acknowledgment sample is 1 and the line first falls at tick `u`
within the bound, payload acquisition starts at tick `u + 1` with bit 0 and an empty buffer. -/
def Obligations.HandshakePassesThenPayloadStarts : Prop :=
  ∀ (s : State) (u : Nat), AcceptsRead s → HandshakeAt s u → NoReset s (u + 1) →
    ∃ t, runFor (u + 1) s = .next t ∧ t.st = St.bitWaitHigh ∧ t.cnt = 0 ∧ t.bitn = 0#6 ∧ BufferZero t ∧ t.done = false ∧
      t.status = Stat.none ∧ t.errState = 0x0#4 ∧ MeasurementZero t ∧ t.cfg = s.cfg

/-- R124, R164 and R123, the failing side: a high presence sample is NO_RESPONSE, else a low acknowledgment sample is
INVALID_HANDSHAKE, else a line that never falls within the bound is TIMEOUT in RESP_WAIT_LOW; each is taken at its tick, the
result shows at the next, and buffer and measurement are zero. -/
def Obligations.HandshakeFailsAtItsTick : Prop :=
  ∀ s : State, AcceptsRead s → NoReset s (ackTick s.cfg + s.cfg.tEdgeTimeout + 1) →
    (s.lineAt (presenceTick s.cfg) = true →
      ∃ t, runFor (presenceTick s.cfg + 1) s = .next t ∧ t.st = St.idle ∧ t.done = true ∧ t.status = Stat.noResponse ∧
        t.errState = 0x3#4 ∧ t.bitn = 0#6 ∧ BufferZero t ∧ MeasurementZero t) ∧
    (s.lineAt (presenceTick s.cfg) = false → s.lineAt (ackTick s.cfg) = false →
      ∃ t, runFor (ackTick s.cfg + 1) s = .next t ∧ t.st = St.idle ∧ t.done = true ∧ t.status = Stat.invalidHandshake ∧
        t.errState = 0x4#4 ∧ t.bitn = 0#6 ∧ BufferZero t ∧ MeasurementZero t) ∧
    (s.lineAt (presenceTick s.cfg) = false → s.lineAt (ackTick s.cfg) = true →
      (∀ x < ackTick s.cfg + s.cfg.tEdgeTimeout + 1, ackTick s.cfg < x → s.lineAt x = true) →
      ∃ t, runFor (ackTick s.cfg + s.cfg.tEdgeTimeout + 1) s = .next t ∧ t.st = St.idle ∧ t.done = true ∧
        t.status = Stat.timeout ∧ t.errState = 0x5#4 ∧ t.bitn = 0#6 ∧ BufferZero t ∧ MeasurementZero t)

/-- R134: a clean high pulse of `w` ticks that rises at tick `r` is sliced as 1 exactly when `w > T_BIT_SAMPLE`, whatever the line
does after the sample: at tick `r + T_BIT_SAMPLE + 1` the bit is in its byte and BIT_WAIT_LOW is current. R137: where BIT_WAIT_LOW
sees the line low within its bound, the next bit (or CHECK after bit 39) starts at the tick after that. -/
def Obligations.CleanPulseIsSlicedByItsWidth : Prop :=
  (∀ (s : State) (r w : Nat), s.cfg.legal = true → s.st = St.bitWaitHigh → s.cnt = 0 → s.bitn.toNat ≤ 39 →
    CleanPulse s r w → NoReset s (r + s.cfg.tBitSample + 1) →
    ∃ t, runFor (r + s.cfg.tBitSample + 1) s = .next t ∧ t.st = St.bitWaitLow ∧ t.cnt = 0 ∧ t.bitn = s.bitn ∧
      t.buf = s.buf.write (s.bitn.toNat / 8) (sliceInto (s.buf.read (s.bitn.toNat / 8)) (decide (s.cfg.tBitSample < w))) ∧
      SameReport s t ∧ SameMeasurement s t ∧ t.cfg = s.cfg) ∧
  ∀ (s : State) (r w : Nat), s.cfg.legal = true → s.st = St.bitWaitHigh → s.cnt = 0 → s.bitn.toNat ≤ 39 →
    CleanBit s 0 r w → NoReset s (fallTick s.cfg r w + 1) →
    ∃ t, runFor (fallTick s.cfg r w + 1) s = .next t ∧
      t.st = (if s.bitn = 39#6 then St.check else St.bitWaitHigh) ∧ t.cnt = 0 ∧
      t.bitn = (if s.bitn = 39#6 then 39#6 else s.bitn + 1) ∧
      t.buf = s.buf.write (s.bitn.toNat / 8) (sliceInto (s.buf.read (s.bitn.toNat / 8)) (decide (s.cfg.tBitSample < w))) ∧
      SameReport s t ∧ SameMeasurement s t ∧ t.cfg = s.cfg

/-- A WHOLE READ (R136, R141, R192): for every legal configuration, a READ whose handshake passes and whose line then carries
forty clean pulses ends in IDLE two ticks after the last fall, with each bit 1 exactly when its pulse is wider than
`T_BIT_SAMPLE`, packed first bit most significant; it reports OK with the decode of those bytes when their checksum matches, and
CHECKSUM_MISMATCH with zero measurement registers when it does not. -/
def Obligations.CleanFrameIsReadAndChecked : Prop :=
  ∀ (s : State) (u : Nat) (r w : Nat → Nat), AcceptsRead s → HandshakeAt s u →
    (∀ j < nBits, CleanBit s (bitEntry s.cfg u r w j) (r j) (w j)) →
    NoReset s (fallTick s.cfg (r 39) (w 39) + 2) →
    ∃ t, runFor (fallTick s.cfg (r 39) (w 39) + 2) s = .next t ∧ t.st = St.idle ∧ t.done = true ∧ t.bitn = 39#6 ∧
      (∀ k < nBytes, (t.buf.read k).toNat = firstBits (fun j => decide (s.cfg.tBitSample < w j)) k 8) ∧
      (checksum t.buf = fieldC t.buf → t.status = Stat.ok ∧ t.errState = 0x0#4 ∧ t.mHum = decodeHum t.buf ∧
        t.mTmag = decodeTmag t.buf ∧ t.mTneg = decodeTneg t.buf) ∧
      (checksum t.buf ≠ fieldC t.buf → t.status = Stat.checksumMismatch ∧ t.errState = 0x9#4 ∧ MeasurementZero t)

/-- R95: every accepted READ is back in IDLE within `N_MAX` ticks, whatever the inputs do. The attempt's length, the ticks from its
acceptance to its first return to IDLE, is at least `N_MIN` if it reports what CHECK reports, and FEWER than `N_MAX` if it fails
before CHECK. The last clause (R141, R163, assumption 14): when the line falls at the last allowed tick of RESP_WAIT_LOW, and each
of forty clean pulses rises and falls at the last tick its poll allows, the length is exactly `N_MAX`; all the bits are 1, so the
attempt ends with CHECKSUM_MISMATCH. -/
def Obligations.EveryAttemptEndsWithinNMax : Prop :=
  (∀ s : State, AcceptsRead s → ∃ n t, 1 ≤ n ∧ n ≤ nMax s.cfg ∧ runFor n s = .next t ∧ t.st = St.idle) ∧
  (∀ (s t : State) (n : Nat), AcceptsRead s → 1 ≤ n → runFor n s = .next t → t.st = St.idle →
     (∀ j u, 1 ≤ j → j < n → runFor j s = .next u → u.busy = true) →
     n ≤ nMax s.cfg ∧ (t.status = Stat.ok ∨ t.status = Stat.checksumMismatch → nMin s.cfg ≤ n) ∧
     (t.status = Stat.noResponse ∨ t.status = Stat.invalidHandshake ∨ t.status = Stat.timeout → n < nMax s.cfg)) ∧
  ∀ (s : State) (u period : Nat), AcceptsRead s → HandshakeAt s u → u = ackTick s.cfg + s.cfg.tEdgeTimeout →
    period = s.cfg.tEdgeTimeout + s.cfg.tBitSample + s.cfg.tEdgeTimeout →
    (∀ j < nBits, CleanBit s (u + 1 + j * period) (u + s.cfg.tEdgeTimeout + j * period)
      (s.cfg.tBitSample + s.cfg.tEdgeTimeout)) →
    NoReset s (nMax s.cfg) →
    (∃ t, runFor (nMax s.cfg) s = .next t ∧ t.st = St.idle ∧ t.done = true ∧ t.status = Stat.checksumMismatch ∧
      t.errState = 0x9#4 ∧ ∀ k < nBytes, t.buf.read k = 0xFF#8) ∧
    ∀ j, 1 ≤ j → j < nMax s.cfg → ∃ v, runFor j s = .next v ∧ v.busy = true

/-- R95, the lower bound: no run from IDLE has CHECK current before tick `N_MIN - 1`, so an attempt that runs CHECK takes at
least `N_MIN` ticks, whatever the inputs do. -/
def Obligations.NoCheckBeforeNMin : Prop :=
  ∀ (s t : State) (n : Nat), s.st = St.idle → runFor n s = .next t → t.st = St.check → nMin s.cfg ≤ n + 1

/-! ## Ports -/

/-- R23: each host port shows its register, or the function of it that the table of R23 gives. -/
def Obligations.HostPortsShowTheirRegisters : Prop :=
  ∀ s : State,
    (s.outputs.busy = true ↔ s.st ≠ 0x0#4) ∧ s.outputs.done = s.done ∧ s.outputs.status = s.status ∧
    s.outputs.errState = s.errState ∧ s.outputs.state = s.st ∧ s.outputs.bitIndex = s.bitn ∧
    s.outputs.raw0 = s.buf.read 0 ∧ s.outputs.raw1 = s.buf.read 1 ∧ s.outputs.raw2 = s.buf.read 2 ∧
    s.outputs.raw3 = s.buf.read 3 ∧ s.outputs.raw4 = s.buf.read 4 ∧ s.outputs.humTenths = s.mHum ∧
    s.outputs.tempNeg = s.mTneg ∧ s.outputs.tempMag = s.mTmag ∧
    s.outputs.tempTenths.toNat = (if s.mTneg then (2 ^ 16 - s.mTmag.toNat) % 2 ^ 16 else s.mTmag.toNat) ∧
    s.outputs.humInt.toNat = s.mHum.toNat / 10 ∧ s.outputs.humFrac.toNat = s.mHum.toNat % 10 ∧
    s.outputs.tempInt.toNat = s.mTmag.toNat / 10 ∧ s.outputs.tempFrac.toNat = s.mTmag.toNat % 10
end

