-- ==== Sys2Proof/Laws/State.lean ====
section
/-! SUPPORT. One lemma per field of State per named update, true by rfl, so that no proof unfolds a record update; and the
inputs of a tick under each update. -/

namespace Sys2Proof.Machine

variable (s : State)

@[simp] theorem State.clearReport_st : (s.clearReport).st = s.st := rfl
@[simp] theorem State.clearReport_cnt : (s.clearReport).cnt = s.cnt := rfl
@[simp] theorem State.clearReport_bitn : (s.clearReport).bitn = s.bitn := rfl
@[simp] theorem State.clearReport_buf : (s.clearReport).buf = s.buf := rfl
@[simp] theorem State.clearReport_done : (s.clearReport).done = false := rfl
@[simp] theorem State.clearReport_status : (s.clearReport).status = Stat.none := rfl
@[simp] theorem State.clearReport_errState : (s.clearReport).errState = 0x0#4 := rfl
@[simp] theorem State.clearReport_mHum : (s.clearReport).mHum = s.mHum := rfl
@[simp] theorem State.clearReport_mTmag : (s.clearReport).mTmag = s.mTmag := rfl
@[simp] theorem State.clearReport_mTneg : (s.clearReport).mTneg = s.mTneg := rfl
@[simp] theorem State.clearReport_cfg : (s.clearReport).cfg = s.cfg := rfl
@[simp] theorem State.clearReport_tick : (s.clearReport).tick = s.tick := rfl
@[simp] theorem State.clearReport_pending : (s.clearReport).pending = s.pending := rfl
@[simp] theorem State.clearReport_inputAt (j : Nat) : (s.clearReport).inputAt j = s.inputAt j := rfl

@[simp] theorem State.reportOk_st : (s.reportOk).st = s.st := rfl
@[simp] theorem State.reportOk_cnt : (s.reportOk).cnt = s.cnt := rfl
@[simp] theorem State.reportOk_bitn : (s.reportOk).bitn = s.bitn := rfl
@[simp] theorem State.reportOk_buf : (s.reportOk).buf = s.buf := rfl
@[simp] theorem State.reportOk_done : (s.reportOk).done = true := rfl
@[simp] theorem State.reportOk_status : (s.reportOk).status = Stat.ok := rfl
@[simp] theorem State.reportOk_errState : (s.reportOk).errState = s.errState := rfl
@[simp] theorem State.reportOk_mHum : (s.reportOk).mHum = s.mHum := rfl
@[simp] theorem State.reportOk_mTmag : (s.reportOk).mTmag = s.mTmag := rfl
@[simp] theorem State.reportOk_mTneg : (s.reportOk).mTneg = s.mTneg := rfl
@[simp] theorem State.reportOk_cfg : (s.reportOk).cfg = s.cfg := rfl
@[simp] theorem State.reportOk_tick : (s.reportOk).tick = s.tick := rfl
@[simp] theorem State.reportOk_pending : (s.reportOk).pending = s.pending := rfl
@[simp] theorem State.reportOk_inputAt (j : Nat) : (s.reportOk).inputAt j = s.inputAt j := rfl

@[simp] theorem State.reportFailure_st (k : ErrorKind) : (s.reportFailure k).st = s.st := rfl
@[simp] theorem State.reportFailure_cnt (k : ErrorKind) : (s.reportFailure k).cnt = s.cnt := rfl
@[simp] theorem State.reportFailure_bitn (k : ErrorKind) : (s.reportFailure k).bitn = s.bitn := rfl
@[simp] theorem State.reportFailure_buf (k : ErrorKind) : (s.reportFailure k).buf = s.buf := rfl
@[simp] theorem State.reportFailure_done (k : ErrorKind) : (s.reportFailure k).done = true := rfl
@[simp] theorem State.reportFailure_status (k : ErrorKind) : (s.reportFailure k).status = errorCode k := rfl
@[simp] theorem State.reportFailure_errState (k : ErrorKind) : (s.reportFailure k).errState = s.st := rfl
@[simp] theorem State.reportFailure_mHum (k : ErrorKind) : (s.reportFailure k).mHum = s.mHum := rfl
@[simp] theorem State.reportFailure_mTmag (k : ErrorKind) : (s.reportFailure k).mTmag = s.mTmag := rfl
@[simp] theorem State.reportFailure_mTneg (k : ErrorKind) : (s.reportFailure k).mTneg = s.mTneg := rfl
@[simp] theorem State.reportFailure_cfg (k : ErrorKind) : (s.reportFailure k).cfg = s.cfg := rfl
@[simp] theorem State.reportFailure_tick (k : ErrorKind) : (s.reportFailure k).tick = s.tick := rfl
@[simp] theorem State.reportFailure_pending (k : ErrorKind) : (s.reportFailure k).pending = s.pending := rfl
@[simp] theorem State.reportFailure_inputAt (k : ErrorKind) (j : Nat) : (s.reportFailure k).inputAt j = s.inputAt j := rfl

theorem State.loadByte_eq (k : Nat) : s.loadByte k = s.buf.read k := rfl

@[simp] theorem State.putByte_st (k : Nat) (v : Byte) : (s.putByte k v).st = s.st := rfl
@[simp] theorem State.putByte_cnt (k : Nat) (v : Byte) : (s.putByte k v).cnt = s.cnt := rfl
@[simp] theorem State.putByte_bitn (k : Nat) (v : Byte) : (s.putByte k v).bitn = s.bitn := rfl
@[simp] theorem State.putByte_buf (k : Nat) (v : Byte) : (s.putByte k v).buf = s.buf.write k v := rfl
@[simp] theorem State.putByte_done (k : Nat) (v : Byte) : (s.putByte k v).done = s.done := rfl
@[simp] theorem State.putByte_status (k : Nat) (v : Byte) : (s.putByte k v).status = s.status := rfl
@[simp] theorem State.putByte_errState (k : Nat) (v : Byte) : (s.putByte k v).errState = s.errState := rfl
@[simp] theorem State.putByte_mHum (k : Nat) (v : Byte) : (s.putByte k v).mHum = s.mHum := rfl
@[simp] theorem State.putByte_mTmag (k : Nat) (v : Byte) : (s.putByte k v).mTmag = s.mTmag := rfl
@[simp] theorem State.putByte_mTneg (k : Nat) (v : Byte) : (s.putByte k v).mTneg = s.mTneg := rfl
@[simp] theorem State.putByte_cfg (k : Nat) (v : Byte) : (s.putByte k v).cfg = s.cfg := rfl
@[simp] theorem State.putByte_tick (k : Nat) (v : Byte) : (s.putByte k v).tick = s.tick := rfl
@[simp] theorem State.putByte_pending (k : Nat) (v : Byte) : (s.putByte k v).pending = s.pending := rfl
@[simp] theorem State.putByte_inputAt (k : Nat) (v : Byte) (j : Nat) : (s.putByte k v).inputAt j = s.inputAt j := rfl

@[simp] theorem State.setCnt_st (v : Nat) : (s.setCnt v).st = s.st := rfl
@[simp] theorem State.setCnt_cnt (v : Nat) : (s.setCnt v).cnt = v % 2 ^ s.cfg.wCnt := rfl
@[simp] theorem State.setCnt_bitn (v : Nat) : (s.setCnt v).bitn = s.bitn := rfl
@[simp] theorem State.setCnt_buf (v : Nat) : (s.setCnt v).buf = s.buf := rfl
@[simp] theorem State.setCnt_done (v : Nat) : (s.setCnt v).done = s.done := rfl
@[simp] theorem State.setCnt_status (v : Nat) : (s.setCnt v).status = s.status := rfl
@[simp] theorem State.setCnt_errState (v : Nat) : (s.setCnt v).errState = s.errState := rfl
@[simp] theorem State.setCnt_mHum (v : Nat) : (s.setCnt v).mHum = s.mHum := rfl
@[simp] theorem State.setCnt_mTmag (v : Nat) : (s.setCnt v).mTmag = s.mTmag := rfl
@[simp] theorem State.setCnt_mTneg (v : Nat) : (s.setCnt v).mTneg = s.mTneg := rfl
@[simp] theorem State.setCnt_cfg (v : Nat) : (s.setCnt v).cfg = s.cfg := rfl
@[simp] theorem State.setCnt_tick (v : Nat) : (s.setCnt v).tick = s.tick := rfl
@[simp] theorem State.setCnt_pending (v : Nat) : (s.setCnt v).pending = s.pending := rfl
@[simp] theorem State.setCnt_inputAt (v : Nat) (j : Nat) : (s.setCnt v).inputAt j = s.inputAt j := rfl

@[simp] theorem State.enter_st (c : StateCode) : (s.enter c).st = c := rfl
@[simp] theorem State.enter_cnt (c : StateCode) : (s.enter c).cnt = 0 := rfl
@[simp] theorem State.enter_bitn (c : StateCode) : (s.enter c).bitn = s.bitn := rfl
@[simp] theorem State.enter_buf (c : StateCode) : (s.enter c).buf = s.buf := rfl
@[simp] theorem State.enter_done (c : StateCode) : (s.enter c).done = s.done := rfl
@[simp] theorem State.enter_status (c : StateCode) : (s.enter c).status = s.status := rfl
@[simp] theorem State.enter_errState (c : StateCode) : (s.enter c).errState = s.errState := rfl
@[simp] theorem State.enter_mHum (c : StateCode) : (s.enter c).mHum = s.mHum := rfl
@[simp] theorem State.enter_mTmag (c : StateCode) : (s.enter c).mTmag = s.mTmag := rfl
@[simp] theorem State.enter_mTneg (c : StateCode) : (s.enter c).mTneg = s.mTneg := rfl
@[simp] theorem State.enter_cfg (c : StateCode) : (s.enter c).cfg = s.cfg := rfl
@[simp] theorem State.enter_tick (c : StateCode) : (s.enter c).tick = s.tick := rfl
@[simp] theorem State.enter_pending (c : StateCode) : (s.enter c).pending = s.pending := rfl
@[simp] theorem State.enter_inputAt (c : StateCode) (j : Nat) : (s.enter c).inputAt j = s.inputAt j := rfl

@[simp] theorem State.setBitn_st (v : BitIndex) : (s.setBitn v).st = s.st := rfl
@[simp] theorem State.setBitn_cnt (v : BitIndex) : (s.setBitn v).cnt = s.cnt := rfl
@[simp] theorem State.setBitn_bitn (v : BitIndex) : (s.setBitn v).bitn = v := rfl
@[simp] theorem State.setBitn_buf (v : BitIndex) : (s.setBitn v).buf = s.buf := rfl
@[simp] theorem State.setBitn_done (v : BitIndex) : (s.setBitn v).done = s.done := rfl
@[simp] theorem State.setBitn_status (v : BitIndex) : (s.setBitn v).status = s.status := rfl
@[simp] theorem State.setBitn_errState (v : BitIndex) : (s.setBitn v).errState = s.errState := rfl
@[simp] theorem State.setBitn_mHum (v : BitIndex) : (s.setBitn v).mHum = s.mHum := rfl
@[simp] theorem State.setBitn_mTmag (v : BitIndex) : (s.setBitn v).mTmag = s.mTmag := rfl
@[simp] theorem State.setBitn_mTneg (v : BitIndex) : (s.setBitn v).mTneg = s.mTneg := rfl
@[simp] theorem State.setBitn_cfg (v : BitIndex) : (s.setBitn v).cfg = s.cfg := rfl
@[simp] theorem State.setBitn_tick (v : BitIndex) : (s.setBitn v).tick = s.tick := rfl
@[simp] theorem State.setBitn_pending (v : BitIndex) : (s.setBitn v).pending = s.pending := rfl
@[simp] theorem State.setBitn_inputAt (v : BitIndex) (j : Nat) : (s.setBitn v).inputAt j = s.inputAt j := rfl

@[simp] theorem State.clearSession_st : (s.clearSession).st = s.st := rfl
@[simp] theorem State.clearSession_cnt : (s.clearSession).cnt = s.cnt := rfl
@[simp] theorem State.clearSession_bitn : (s.clearSession).bitn = 0 := rfl
@[simp] theorem State.clearSession_buf : (s.clearSession).buf = [] := rfl
@[simp] theorem State.clearSession_done : (s.clearSession).done = s.done := rfl
@[simp] theorem State.clearSession_status : (s.clearSession).status = s.status := rfl
@[simp] theorem State.clearSession_errState : (s.clearSession).errState = s.errState := rfl
@[simp] theorem State.clearSession_mHum : (s.clearSession).mHum = s.mHum := rfl
@[simp] theorem State.clearSession_mTmag : (s.clearSession).mTmag = s.mTmag := rfl
@[simp] theorem State.clearSession_mTneg : (s.clearSession).mTneg = s.mTneg := rfl
@[simp] theorem State.clearSession_cfg : (s.clearSession).cfg = s.cfg := rfl
@[simp] theorem State.clearSession_tick : (s.clearSession).tick = s.tick := rfl
@[simp] theorem State.clearSession_pending : (s.clearSession).pending = s.pending := rfl
@[simp] theorem State.clearSession_inputAt (j : Nat) : (s.clearSession).inputAt j = s.inputAt j := rfl

@[simp] theorem State.clearMeasurement_st : (s.clearMeasurement).st = s.st := rfl
@[simp] theorem State.clearMeasurement_cnt : (s.clearMeasurement).cnt = s.cnt := rfl
@[simp] theorem State.clearMeasurement_bitn : (s.clearMeasurement).bitn = s.bitn := rfl
@[simp] theorem State.clearMeasurement_buf : (s.clearMeasurement).buf = s.buf := rfl
@[simp] theorem State.clearMeasurement_done : (s.clearMeasurement).done = s.done := rfl
@[simp] theorem State.clearMeasurement_status : (s.clearMeasurement).status = s.status := rfl
@[simp] theorem State.clearMeasurement_errState : (s.clearMeasurement).errState = s.errState := rfl
@[simp] theorem State.clearMeasurement_mHum : (s.clearMeasurement).mHum = 0 := rfl
@[simp] theorem State.clearMeasurement_mTmag : (s.clearMeasurement).mTmag = 0 := rfl
@[simp] theorem State.clearMeasurement_mTneg : (s.clearMeasurement).mTneg = false := rfl
@[simp] theorem State.clearMeasurement_cfg : (s.clearMeasurement).cfg = s.cfg := rfl
@[simp] theorem State.clearMeasurement_tick : (s.clearMeasurement).tick = s.tick := rfl
@[simp] theorem State.clearMeasurement_pending : (s.clearMeasurement).pending = s.pending := rfl
@[simp] theorem State.clearMeasurement_inputAt (j : Nat) : (s.clearMeasurement).inputAt j = s.inputAt j := rfl

@[simp] theorem State.latch_st (h : Field16) (m : Mag15) (n : Bool) : (s.latch h m n).st = s.st := rfl
@[simp] theorem State.latch_cnt (h : Field16) (m : Mag15) (n : Bool) : (s.latch h m n).cnt = s.cnt := rfl
@[simp] theorem State.latch_bitn (h : Field16) (m : Mag15) (n : Bool) : (s.latch h m n).bitn = s.bitn := rfl
@[simp] theorem State.latch_buf (h : Field16) (m : Mag15) (n : Bool) : (s.latch h m n).buf = s.buf := rfl
@[simp] theorem State.latch_done (h : Field16) (m : Mag15) (n : Bool) : (s.latch h m n).done = s.done := rfl
@[simp] theorem State.latch_status (h : Field16) (m : Mag15) (n : Bool) : (s.latch h m n).status = s.status := rfl
@[simp] theorem State.latch_errState (h : Field16) (m : Mag15) (n : Bool) : (s.latch h m n).errState = s.errState := rfl
@[simp] theorem State.latch_mHum (h : Field16) (m : Mag15) (n : Bool) : (s.latch h m n).mHum = h := rfl
@[simp] theorem State.latch_mTmag (h : Field16) (m : Mag15) (n : Bool) : (s.latch h m n).mTmag = m := rfl
@[simp] theorem State.latch_mTneg (h : Field16) (m : Mag15) (n : Bool) : (s.latch h m n).mTneg = n := rfl
@[simp] theorem State.latch_cfg (h : Field16) (m : Mag15) (n : Bool) : (s.latch h m n).cfg = s.cfg := rfl
@[simp] theorem State.latch_tick (h : Field16) (m : Mag15) (n : Bool) : (s.latch h m n).tick = s.tick := rfl
@[simp] theorem State.latch_pending (h : Field16) (m : Mag15) (n : Bool) : (s.latch h m n).pending = s.pending := rfl
@[simp] theorem State.latch_inputAt (h : Field16) (m : Mag15) (n : Bool) (j : Nat) : (s.latch h m n).inputAt j = s.inputAt j := rfl

@[simp] theorem State.resetRegisters_st : (s.resetRegisters).st = St.idle := rfl
@[simp] theorem State.resetRegisters_cnt : (s.resetRegisters).cnt = 0 := rfl
@[simp] theorem State.resetRegisters_bitn : (s.resetRegisters).bitn = 0 := rfl
@[simp] theorem State.resetRegisters_buf : (s.resetRegisters).buf = [] := rfl
@[simp] theorem State.resetRegisters_done : (s.resetRegisters).done = false := rfl
@[simp] theorem State.resetRegisters_status : (s.resetRegisters).status = Stat.none := rfl
@[simp] theorem State.resetRegisters_errState : (s.resetRegisters).errState = 0x0#4 := rfl
@[simp] theorem State.resetRegisters_mHum : (s.resetRegisters).mHum = 0 := rfl
@[simp] theorem State.resetRegisters_mTmag : (s.resetRegisters).mTmag = 0 := rfl
@[simp] theorem State.resetRegisters_mTneg : (s.resetRegisters).mTneg = false := rfl
@[simp] theorem State.resetRegisters_cfg : (s.resetRegisters).cfg = s.cfg := rfl
@[simp] theorem State.resetRegisters_tick : (s.resetRegisters).tick = s.tick := rfl
@[simp] theorem State.resetRegisters_pending : (s.resetRegisters).pending = s.pending := rfl
@[simp] theorem State.resetRegisters_inputAt (j : Nat) : (s.resetRegisters).inputAt j = s.inputAt j := rfl

@[simp] theorem State.advance_st : (s.advance).st = s.st := rfl
@[simp] theorem State.advance_cnt : (s.advance).cnt = s.cnt := rfl
@[simp] theorem State.advance_bitn : (s.advance).bitn = s.bitn := rfl
@[simp] theorem State.advance_buf : (s.advance).buf = s.buf := rfl
@[simp] theorem State.advance_done : (s.advance).done = s.done := rfl
@[simp] theorem State.advance_status : (s.advance).status = s.status := rfl
@[simp] theorem State.advance_errState : (s.advance).errState = s.errState := rfl
@[simp] theorem State.advance_mHum : (s.advance).mHum = s.mHum := rfl
@[simp] theorem State.advance_mTmag : (s.advance).mTmag = s.mTmag := rfl
@[simp] theorem State.advance_mTneg : (s.advance).mTneg = s.mTneg := rfl
@[simp] theorem State.advance_cfg : (s.advance).cfg = s.cfg := rfl
@[simp] theorem State.advance_tick : (s.advance).tick = s.tick + 1 := rfl
@[simp] theorem State.advance_pending : (s.advance).pending = s.pending.tail := rfl

@[simp] theorem State.advance_inputAt (j : Nat) : s.advance.inputAt j = s.inputAt (j + 1) := by
  simp only [State.inputAt, State.advance_pending, State.advance_tick, List.getElem?_tail]
  rw [Nat.add_assoc, Nat.add_comm 1 j]

theorem State.input_eq : s.input = s.inputAt 0 := rfl

theorem State.lineIn_eq : s.lineIn = (s.inputAt 0).lineIn := rfl

/-- Two states with the same fields are the same state. -/
theorem State.ext_fields {s t : State} (h1 : s.st = t.st) (h2 : s.cnt = t.cnt) (h3 : s.bitn = t.bitn) (h4 : s.buf = t.buf)
    (h5 : s.done = t.done) (h6 : s.status = t.status) (h7 : s.errState = t.errState) (h8 : s.mHum = t.mHum)
    (h9 : s.mTmag = t.mTmag) (h10 : s.mTneg = t.mTneg) (h11 : s.cfg = t.cfg) (h12 : s.tick = t.tick)
    (h13 : s.pending = t.pending) : s = t := by
  cases s; cases t; simp_all

end Sys2Proof.Machine
end

