-- ==== Sys2Proof/Laws/Memory.lean ====
section
/-! SUPPORT. The laws of the payload buffer: read after write, every other byte untouched, and the canonical form, which every
buffer operation keeps and in which equal contents are equal lists. -/

namespace Sys2Proof.Machine

@[simp] theorem Memory.read_nil (a : Nat) : Memory.read [] a = 0x00#8 := rfl

theorem Memory.read_cons (b : Nat) (v : Byte) (m : Memory) (a : Nat) :
    Memory.read ((b, v) :: m) a = if b = a then v else Memory.read m a := rfl

theorem Memory.read_filter_same (m : Memory) (a : Nat) :
    Memory.read (m.filter (fun c => c.1 != a)) a = 0x00#8 := by
  induction m with
  | nil => rfl
  | cons c m ih =>
    obtain ⟨b, v⟩ := c
    by_cases h : b = a
    · simpa [List.filter_cons, h] using ih
    · simpa [List.filter_cons, h, Memory.read_cons] using ih

theorem Memory.read_filter_other (m : Memory) {a b : Nat} (h : b ≠ a) :
    Memory.read (m.filter (fun c => c.1 != a)) b = m.read b := by
  induction m with
  | nil => rfl
  | cons c m ih =>
    obtain ⟨e, v⟩ := c
    by_cases he : e = a
    · have : e ≠ b := fun hb => h (hb ▸ he)
      simpa [List.filter_cons, he, Memory.read_cons, Ne.symm h] using ih
    · simp [he, Memory.read_cons, ih]

theorem Memory.read_insertByte_same (m : Memory) (a : Nat) (v : Byte) : Memory.read (Memory.insertByte a v m) a = v := by
  induction m with
  | nil => simp [Memory.insertByte, Memory.read_cons]
  | cons c m ih =>
    obtain ⟨b, w⟩ := c
    by_cases h : b < a
    · simp [Memory.insertByte, h, Memory.read_cons, Nat.ne_of_lt h, ih]
    · simp [Memory.insertByte, h, Memory.read_cons]

theorem Memory.read_insertByte_other (m : Memory) {a b : Nat} (v : Byte) (h : b ≠ a) :
    Memory.read (Memory.insertByte a v m) b = m.read b := by
  induction m with
  | nil => simp [Memory.insertByte, Memory.read_cons, Ne.symm h]
  | cons c m ih =>
    obtain ⟨e, w⟩ := c
    by_cases he : e < a
    · simp [Memory.insertByte, he, Memory.read_cons, ih]
    · simp [Memory.insertByte, he, Memory.read_cons, Ne.symm h]

/-- A read after a write to the same byte gives the value written. -/
theorem Memory.read_write_same (m : Memory) {a : Nat} (ha : a < nBytes) (v : Byte) : (m.write a v).read a = v := by
  rw [Memory.write, if_neg (by omega)]
  split
  · next h => rw [Memory.read_filter_same, h]; rfl
  · rw [Memory.read_insertByte_same]

/-- A write leaves every other byte alone. -/
theorem Memory.read_write_other (m : Memory) {a b : Nat} (v : Byte) (h : b ≠ a) : (m.write a v).read b = m.read b := by
  unfold Memory.write
  split
  · rfl
  split
  · exact Memory.read_filter_other m h
  · rw [Memory.read_insertByte_other _ _ h, Memory.read_filter_other m h]

theorem Memory.wf_nil : Memory.wf [] := by simp [Memory.wf]

theorem Memory.wf_filter {m : Memory} (h : m.wf) (a : Nat) : Memory.wf (m.filter (fun c => c.1 != a)) :=
  ⟨h.1.filter _, fun c hc => h.2 c (List.mem_of_mem_filter hc)⟩

theorem Memory.mem_insertByte {m : Memory} {a : Nat} {v : Byte} {c : Host.Cell} (h : c ∈ Memory.insertByte a v m) :
    c = (a, v) ∨ c ∈ m := by
  induction m with
  | nil => simpa [Memory.insertByte] using h
  | cons d m ih =>
    obtain ⟨b, w⟩ := d
    by_cases hb : b < a
    · simp only [Memory.insertByte, hb, if_true, List.mem_cons] at h
      rcases h with rfl | h
      · exact .inr (List.mem_cons_self ..)
      · exact (ih h).imp_right (List.mem_cons_of_mem _)
    · simpa [Memory.insertByte, hb] using h

theorem Memory.pairwise_insertByte {m : Memory} {a : Nat} (v : Byte) (h : List.Pairwise (fun c d => c.1 < d.1) m)
    (ha : ∀ c ∈ m, c.1 ≠ a) : List.Pairwise (fun c d => c.1 < d.1) (Memory.insertByte a v m) := by
  induction m with
  | nil => simp [Memory.insertByte]
  | cons d m ih =>
    obtain ⟨b, w⟩ := d
    rw [List.pairwise_cons] at h
    by_cases hb : b < a
    · simp only [Memory.insertByte, hb, if_true, List.pairwise_cons]
      refine ⟨fun c hc => ?_, ih h.2 fun c hc => ha c (List.mem_cons_of_mem _ hc)⟩
      rcases Memory.mem_insertByte hc with rfl | hc
      · exact hb
      · exact h.1 c hc
    · have hne : b ≠ a := ha (b, w) (List.mem_cons_self ..)
      have hab : a < b := by omega
      simp only [Memory.insertByte, hb, if_false, List.pairwise_cons]
      refine ⟨fun c hc => ?_, h⟩
      rcases List.mem_cons.1 hc with rfl | hc
      · exact hab
      · exact hab.trans (h.1 c hc)

/-- A write at an index the buffer does not have stores nothing. -/
theorem Memory.write_outside (m : Memory) {a : Nat} (ha : nBytes ≤ a) (v : Byte) : m.write a v = m := if_pos ha

/-- A write keeps the canonical form. -/
theorem Memory.wf_write {m : Memory} (h : m.wf) (a : Nat) (v : Byte) : Memory.wf (m.write a v) := by
  unfold Memory.write
  split
  · exact h
  next ha =>
  replace ha : a < nBytes := by omega
  split
  · exact Memory.wf_filter h a
  · next hv =>
    have hf := Memory.wf_filter h a
    refine ⟨Memory.pairwise_insertByte v hf.1 fun c hc => ?_, fun c hc => ?_⟩
    · have := List.of_mem_filter hc
      simpa using this
    · rcases Memory.mem_insertByte hc with rfl | hc
      · exact ⟨ha, hv⟩
      · exact hf.2 c hc

theorem Memory.read_of_forall_ne {m : Memory} {a : Nat} (h : ∀ c ∈ m, c.1 ≠ a) : m.read a = 0x00#8 := by
  induction m with
  | nil => rfl
  | cons c m ih =>
    obtain ⟨b, v⟩ := c
    rw [Memory.read_cons, if_neg (h (b, v) (List.mem_cons_self ..)),
      ih fun c hc => h c (List.mem_cons_of_mem _ hc)]

/-- A canonical buffer reads zero at every index it does not have. -/
theorem Memory.read_outside {m : Memory} (h : m.wf) {a : Nat} (ha : nBytes ≤ a) : m.read a = 0x00#8 :=
  Memory.read_of_forall_ne fun c hc hca => absurd (h.2 c hc).1 (by omega)

theorem Memory.wf_tail {c : Host.Cell} {m : Memory} (h : Memory.wf (c :: m)) : Memory.wf m :=
  ⟨(List.pairwise_cons.1 h.1).2, fun d hd => h.2 d (List.mem_cons_of_mem _ hd)⟩

theorem Memory.read_head_key {b : Nat} {v : Byte} {m : Memory} (h : Memory.wf ((b, v) :: m)) : m.read b = 0x00#8 :=
  Memory.read_of_forall_ne fun c hc hcb => absurd ((List.pairwise_cons.1 h.1).1 c hc) (by simp [hcb])

/-- Canonical buffers with equal contents are equal lists. -/
theorem Memory.eq_of_read_eq : ∀ {m n : Memory}, m.wf → n.wf → (∀ a, m.read a = n.read a) → m = n
  | [], [], _, _, _ => rfl
  | [], (b, v) :: n, _, hn, h => by
    have := h b
    rw [Memory.read_nil, Memory.read_cons, if_pos rfl] at this
    exact absurd this.symm (hn.2 (b, v) (List.mem_cons_self ..)).2
  | (b, v) :: m, [], hm, _, h => by
    have := h b
    rw [Memory.read_nil, Memory.read_cons, if_pos rfl] at this
    exact absurd this (hm.2 (b, v) (List.mem_cons_self ..)).2
  | (b, v) :: m, (e, w) :: n, hm, hn, h => by
    have hbe : b = e := by
      by_contra hne
      rcases Nat.lt_or_gt_of_ne hne with hlt | hlt
      · have := h b
        rw [Memory.read_cons, if_pos rfl, Memory.read_cons, if_neg (Ne.symm hne),
          Memory.read_of_forall_ne (fun c hc hcb => by
            have := (List.pairwise_cons.1 hn.1).1 c hc; simp [hcb] at this; omega)] at this
        exact (hm.2 (b, v) (List.mem_cons_self ..)).2 this
      · have := h e
        rw [Memory.read_cons, if_neg hne, Memory.read_cons, if_pos rfl,
          Memory.read_of_forall_ne (fun c hc hcb => by
            have := (List.pairwise_cons.1 hm.1).1 c hc; simp [hcb] at this; omega)] at this
        exact (hn.2 (e, w) (List.mem_cons_self ..)).2 this.symm
    subst hbe
    have hvw : v = w := by simpa [Memory.read_cons] using h b
    subst hvw
    congr 1
    refine Memory.eq_of_read_eq (Memory.wf_tail hm) (Memory.wf_tail hn) fun a => ?_
    by_cases ha : b = a
    · subst ha; rw [Memory.read_head_key hm, Memory.read_head_key hn]
    · simpa [Memory.read_cons, ha] using h a

end Sys2Proof.Machine
end

