-- ==== Sys2Proof/Laws/Operands.lean ====
section
/-! SUPPORT. The operand forms as naturals: what a slice, a field, the frame and the checksum are worth. -/

namespace Sys2Proof.Machine

/-- A shift into a byte that holds at most seven bits drops nothing (R136). -/
theorem sliceInto_toNat (v : Byte) (b : Bool) {c : Nat} (hc : c < 8) (h : v.toNat < 2 ^ c) :
    (sliceInto v b).toNat = 2 * v.toNat + b.toNat ∧ (sliceInto v b).toNat < 2 ^ (c + 1) := by
  have hb : b.toNat ≤ 1 := by cases b <;> simp
  have h7 : 2 ^ c ≤ 2 ^ 7 := Nat.pow_le_pow_right (by decide) (by omega)
  have h1 : v.toNat <<< 1 ||| b.toNat = 2 * v.toNat + b.toNat := by
    have := Nat.two_pow_add_eq_or_of_lt (i := 1) (b := b.toNat) (by omega) v.toNat
    rw [Nat.shiftLeft_eq, Nat.mul_comm, ← this]
  simp only [sliceInto, BitVec.toNat_ofNat, h1]
  rw [Nat.pow_succ]
  omega

theorem fieldH_toNat (m : Memory) : (fieldH m).toNat = (m.read 0).toNat * 256 + (m.read 1).toNat := by
  have := (m.read 1).isLt
  simp only [fieldH, BitVec.toNat_append]
  rw [Nat.shiftLeft_eq, Nat.mul_comm, ← Nat.two_pow_add_eq_or_of_lt this]

theorem fieldT_toNat (m : Memory) : (fieldT m).toNat = (m.read 2).toNat * 256 + (m.read 3).toNat := by
  have := (m.read 3).isLt
  simp only [fieldT, BitVec.toNat_append]
  rw [Nat.shiftLeft_eq, Nat.mul_comm, ← Nat.two_pow_add_eq_or_of_lt this]

theorem fieldM_toNat (m : Memory) : (fieldM m).toNat = ((m.read 2).toNat * 256 + (m.read 3).toNat) % 2 ^ 15 := by
  simp only [fieldM, BitVec.extractLsb'_toNat, fieldT_toNat, Nat.shiftRight_zero]

theorem frameOf_toNat (m : Memory) : (frameOf m).toNat =
    (m.read 0).toNat * 2 ^ 32 + (m.read 1).toNat * 2 ^ 24 + (m.read 2).toNat * 2 ^ 16 + (m.read 3).toNat * 2 ^ 8
      + (m.read 4).toNat := by
  have h1 := (m.read 1).isLt
  have h2 := (m.read 2).isLt
  have h3 := (m.read 3).isLt
  have h4 := (m.read 4).isLt
  simp only [frameOf, BitVec.toNat_append, Nat.shiftLeft_eq]
  rw [Nat.mul_comm _ (2 ^ 8), ← Nat.two_pow_add_eq_or_of_lt h4, Nat.mul_comm _ (2 ^ 8), ← Nat.two_pow_add_eq_or_of_lt h3,
    Nat.mul_comm _ (2 ^ 8), ← Nat.two_pow_add_eq_or_of_lt h2, Nat.mul_comm _ (2 ^ 8), ← Nat.two_pow_add_eq_or_of_lt h1]
  omega

/-- CHECK's comparison, on naturals. -/
theorem checksum_eq_iff (m : Memory) : checksum m = fieldC m ↔
    (m.read 4).toNat = ((m.read 0).toNat + (m.read 1).toNat + (m.read 2).toNat + (m.read 3).toNat) % 256 := by
  rw [← BitVec.toNat_inj, eq_comm]
  simp [checksum, fieldC, exactSum]

end Sys2Proof.Machine
end

