-- ==== Sys2Proof/Laws/Ops.lean ====
section
/-! SUPPORT. For each shared operation and each meaning, one lemma that says everything it can do when it answers a next
state. -/

namespace Sys2Proof.Machine

variable {s t : State}

/-- The failure procedure always answers, with the state R163 gives. -/
theorem raiseFail_eq (k : ErrorKind) (s : State) : raiseFail k s = .next ((s.reportFailure k).enter St.idle) := rfl

theorem stay_eq (s : State) : stay s = .next (s.setCnt (s.cnt + 1)) := rfl

theorem timed_last {d : Nat} {exit : State → Result} (h : s.cnt + 1 = d) : timed d exit s = exit s := if_pos h

theorem timed_stay {d : Nat} {exit : State → Result} (h : s.cnt + 1 ≠ d) : timed d exit s = stay s := if_neg h

/-- What a timed state does: its exit action at its last tick, one more tick otherwise. -/
theorem timed_cases {d : Nat} {exit : State → Result} (h : timed d exit s = .next t) :
    (s.cnt + 1 = d ∧ exit s = .next t) ∨ (s.cnt + 1 ≠ d ∧ t = s.setCnt (s.cnt + 1)) := by
  unfold timed at h
  split at h
  · exact .inl ⟨‹_›, h⟩
  · exact .inr ⟨‹_›, by simpa [stay] using h.symm⟩

/-- What a poll state does: its exit action when the level is there, the timeout at its last tick, one more tick otherwise. -/
theorem poll_cases {l : Bool} {exit : State → Result} (h : poll l exit s = .next t) :
    (s.lineIn = l ∧ exit s = .next t) ∨
    (s.lineIn ≠ l ∧ s.cnt + 1 = s.cfg.tEdgeTimeout ∧ t = (s.reportFailure .timeout).enter St.idle) ∨
    (s.lineIn ≠ l ∧ s.cnt + 1 ≠ s.cfg.tEdgeTimeout ∧ t = s.setCnt (s.cnt + 1)) := by
  unfold poll at h
  split at h
  · exact .inl ⟨‹_›, h⟩
  · split at h
    · exact .inr (.inl ⟨‹_›, ‹_›, by simpa [raiseFail] using h.symm⟩)
    · exact .inr (.inr ⟨‹_›, ‹_›, by simpa [stay] using h.symm⟩)

theorem execIdle_cases (h : execIdle s = .next t) : t = s := by simpa [execIdle] using h.symm

theorem execRead_cases (h : execRead s = .next t) :
    t = s.clearSession.clearReport.clearMeasurement.enter St.startLow := by simpa [execRead] using h.symm

theorem execReset_cases (h : execReset s = .next t) : t = s.resetRegisters := by simpa [execReset] using h.symm

theorem execStartLow_cases (h : execStartLow s = .next t) :
    (s.cnt + 1 = s.cfg.tStartLow ∧ t = s.enter St.startHigh) ∨
    (s.cnt + 1 ≠ s.cfg.tStartLow ∧ t = s.setCnt (s.cnt + 1)) :=
  (timed_cases h).imp_left fun ⟨h1, h2⟩ => ⟨h1, by simpa using h2.symm⟩

theorem execStartHigh_cases (h : execStartHigh s = .next t) :
    (s.cnt + 1 = s.cfg.tReleaseHigh ∧ t = s.enter St.respSettle) ∨
    (s.cnt + 1 ≠ s.cfg.tReleaseHigh ∧ t = s.setCnt (s.cnt + 1)) :=
  (timed_cases h).imp_left fun ⟨h1, h2⟩ => ⟨h1, by simpa using h2.symm⟩

theorem execRespSettle_cases (h : execRespSettle s = .next t) :
    (s.cnt + 1 = s.cfg.tRespSettle ∧ s.lineIn = true ∧ t = (s.reportFailure .noResponse).enter St.idle) ∨
    (s.cnt + 1 = s.cfg.tRespSettle ∧ s.lineIn = false ∧ t = s.enter St.respLow) ∨
    (s.cnt + 1 ≠ s.cfg.tRespSettle ∧ t = s.setCnt (s.cnt + 1)) := by
  rcases timed_cases h with ⟨h1, h2⟩ | h2
  · split at h2
    · next hl => exact .inl ⟨h1, hl, by simpa [raiseFail] using h2.symm⟩
    · next hl => exact .inr (.inl ⟨h1, by simpa using hl, by simpa using h2.symm⟩)
  · exact .inr (.inr h2)

theorem execRespLow_cases (h : execRespLow s = .next t) :
    (s.cnt + 1 = s.cfg.tRespLow ∧ s.lineIn = false ∧ t = (s.reportFailure .invalidHandshake).enter St.idle) ∨
    (s.cnt + 1 = s.cfg.tRespLow ∧ s.lineIn = true ∧ t = s.enter St.respWaitLow) ∨
    (s.cnt + 1 ≠ s.cfg.tRespLow ∧ t = s.setCnt (s.cnt + 1)) := by
  rcases timed_cases h with ⟨h1, h2⟩ | h2
  · split at h2
    · next hl => exact .inr (.inl ⟨h1, hl, by simpa using h2.symm⟩)
    · next hl => exact .inl ⟨h1, by simpa using hl, by simpa [raiseFail] using h2.symm⟩
  · exact .inr (.inr h2)

theorem execRespWaitLow_cases (h : execRespWaitLow s = .next t) :
    (s.lineIn = false ∧ t = s.enter St.bitWaitHigh) ∨
    (s.lineIn ≠ false ∧ s.cnt + 1 = s.cfg.tEdgeTimeout ∧ t = (s.reportFailure .timeout).enter St.idle) ∨
    (s.lineIn ≠ false ∧ s.cnt + 1 ≠ s.cfg.tEdgeTimeout ∧ t = s.setCnt (s.cnt + 1)) :=
  (poll_cases h).imp_left fun ⟨h1, h2⟩ => ⟨h1, by simpa using h2.symm⟩

theorem execBitWaitHigh_cases (h : execBitWaitHigh s = .next t) :
    (s.lineIn = true ∧ t = s.enter St.bitSample) ∨
    (s.lineIn ≠ true ∧ s.cnt + 1 = s.cfg.tEdgeTimeout ∧ t = (s.reportFailure .timeout).enter St.idle) ∨
    (s.lineIn ≠ true ∧ s.cnt + 1 ≠ s.cfg.tEdgeTimeout ∧ t = s.setCnt (s.cnt + 1)) :=
  (poll_cases h).imp_left fun ⟨h1, h2⟩ => ⟨h1, by simpa using h2.symm⟩

theorem execBitSample_cases (h : execBitSample s = .next t) :
    (s.cnt + 1 = s.cfg.tBitSample ∧
      t = (s.putByte s.byteIndex (sliceInto (s.buf.read s.byteIndex) s.lineIn)).enter St.bitWaitLow) ∨
    (s.cnt + 1 ≠ s.cfg.tBitSample ∧ t = s.setCnt (s.cnt + 1)) :=
  (timed_cases h).imp_left fun ⟨h1, h2⟩ => ⟨h1, by simpa [State.loadByte] using h2.symm⟩

theorem execBitWaitLow_cases (h : execBitWaitLow s = .next t) :
    (s.lineIn = false ∧ s.bitn = 39#6 ∧ t = s.enter St.check) ∨
    (s.lineIn = false ∧ s.bitn ≠ 39#6 ∧ t = (s.setBitn (s.bitn + 1)).enter St.bitWaitHigh) ∨
    (s.lineIn ≠ false ∧ s.cnt + 1 = s.cfg.tEdgeTimeout ∧ t = (s.reportFailure .timeout).enter St.idle) ∨
    (s.lineIn ≠ false ∧ s.cnt + 1 ≠ s.cfg.tEdgeTimeout ∧ t = s.setCnt (s.cnt + 1)) := by
  rcases poll_cases h with ⟨h1, h2⟩ | h2
  · split at h2
    · exact .inl ⟨h1, ‹_›, by simpa using h2.symm⟩
    · exact .inr (.inl ⟨h1, ‹_›, by simpa using h2.symm⟩)
  · exact .inr (.inr h2)

theorem execCheck_cases (h : execCheck s = .next t) :
    (checksum s.buf = fieldC s.buf ∧
      t = ((s.latch (decodeHum s.buf) (decodeTmag s.buf) (decodeTneg s.buf)).reportOk).enter St.idle) ∨
    (checksum s.buf ≠ fieldC s.buf ∧ t = (s.reportFailure .checksumMismatch).enter St.idle) := by
  unfold execCheck at h
  split at h
  · exact .inl ⟨‹_›, by simpa using h.symm⟩
  · exact .inr ⟨‹_›, by simpa [raiseFail] using h.symm⟩

end Sys2Proof.Machine
end

