-- ==== Sys2Proof/Laws/PerInstr.lean ====
section
/-! SUPPORT. One law of every row of the opcode table, row by row. -/

/-- Bit 5 of a row's command word is set for RESET and for no other row (30_encoding.md R78). -/
def Sys2Proof.Laws.ResetBit.Statement (i : Sys2Proof.Instr) : Prop :=
  (Sys2Proof.encode i).getLsbD 5 = true ↔ ∃ start st, i = .reset start st

namespace Sys2Proof.Laws.ResetBit

open Sys2Proof

theorem idle : Statement .idle := by simp +decide [Statement]

theorem startLow (start : Bool) : Statement (.startLow start) := by cases start <;> simp +decide [Statement]

theorem startHigh (start : Bool) : Statement (.startHigh start) := by cases start <;> simp +decide [Statement]

theorem respSettle (start : Bool) : Statement (.respSettle start) := by cases start <;> simp +decide [Statement]

theorem respLow (start : Bool) : Statement (.respLow start) := by cases start <;> simp +decide [Statement]

theorem respWaitLow (start : Bool) : Statement (.respWaitLow start) := by cases start <;> simp +decide [Statement]

theorem bitWaitHigh (start : Bool) : Statement (.bitWaitHigh start) := by cases start <;> simp +decide [Statement]

theorem bitSample (start : Bool) : Statement (.bitSample start) := by cases start <;> simp +decide [Statement]

theorem bitWaitLow (start : Bool) : Statement (.bitWaitLow start) := by cases start <;> simp +decide [Statement]

theorem check (start : Bool) : Statement (.check start) := by cases start <;> simp +decide [Statement]

theorem read : Statement .read := by simp +decide [Statement]

theorem reset (start : Bool) (st : StateCode) : Statement (.reset start st) := by
  have : (encode (.reset start st)).getLsbD 5 = true := by revert start st; decide
  simp only [Statement, this, true_iff]
  exact ⟨start, st, rfl⟩

end Sys2Proof.Laws.ResetBit
end

