-- ==== Sys2Proof/Laws/Word.lean ====
section
/-! SUPPORT. The three fields of a packed command word read back as they were packed. -/

namespace Sys2Proof

@[simp] theorem wordRst_packWord (r b : Bool) (c : StateCode) : wordRst (packWord r b c) = r := by
  revert r b c; decide

@[simp] theorem wordStart_packWord (r b : Bool) (c : StateCode) : wordStart (packWord r b c) = b := by
  revert r b c; decide

@[simp] theorem wordSt_packWord (r b : Bool) (c : StateCode) : wordSt (packWord r b c) = c := by
  revert r b c; decide

namespace Machine

@[simp] theorem State.wordRst_commandWord (s : State) : wordRst s.commandWord = s.input.rst := wordRst_packWord ..

@[simp] theorem State.wordStart_commandWord (s : State) : wordStart s.commandWord = s.input.start := wordStart_packWord ..

@[simp] theorem State.wordSt_commandWord (s : State) : wordSt s.commandWord = s.st := wordSt_packWord ..

end Machine

end Sys2Proof
end

