-- ==== Sys2Proof/Laws/Step.lean ====
section
/-! SUPPORT. Everything one step can do, said once, and the laws of runs. -/

namespace Sys2Proof.Machine

variable {s t : State}

theorem advanceResult_next {r : Result} (h : advanceResult r = .next t) : ∃ u, r = .next u ∧ t = u.advance := by
  cases r with
  | next u => exact ⟨u, rfl, by simpa [advanceResult] using h.symm⟩
  | fault r => simp [advanceResult] at h
  | refused r => simp [advanceResult] at h

/-- A step that answers ran the decoded row, under a legal configuration, and then the tick passed. -/
theorem step_next (h : step s = .next t) :
    s.cfg.legal = true ∧ ∃ i u, decodeWord s.commandWord = .ok i ∧ exec i s = .next u ∧ t = u.advance := by
  unfold step at h
  split at h
  · next hc =>
    refine ⟨hc, ?_⟩
    split at h
    · next i hi =>
      obtain ⟨u, hu, rfl⟩ := advanceResult_next h
      exact ⟨i, u, hi, hu, rfl⟩
    · simp at h
  · simp at h

theorem step_of_exec {i : Instr} {u : State} (hc : s.cfg.legal = true) (hi : decodeWord s.commandWord = .ok i)
    (hu : exec i s = .next u) : step s = .next u.advance := by
  simp [step, hc, hi, hu, advanceResult]

/-- The decoder on this tick's command word, in the order of R90. -/
theorem decode_commandWord (s : State) : decodeWord s.commandWord =
    if s.input.rst then .ok (.reset s.input.start s.st)
    else if s.st = St.idle then .ok (if s.input.start then .read else .idle)
    else if s.st = St.startLow then .ok (.startLow s.input.start)
    else if s.st = St.startHigh then .ok (.startHigh s.input.start)
    else if s.st = St.respSettle then .ok (.respSettle s.input.start)
    else if s.st = St.respLow then .ok (.respLow s.input.start)
    else if s.st = St.respWaitLow then .ok (.respWaitLow s.input.start)
    else if s.st = St.bitWaitHigh then .ok (.bitWaitHigh s.input.start)
    else if s.st = St.bitSample then .ok (.bitSample s.input.start)
    else if s.st = St.bitWaitLow then .ok (.bitWaitLow s.input.start)
    else if s.st = St.check then .ok (.check s.input.start)
    else .error (.reservedState s.st) := by
  simp only [decodeWord, State.wordRst_commandWord, State.wordStart_commandWord, State.wordSt_commandWord]

/-- EVERYTHING A STEP CAN DO: `Ran s u` when some rule takes the registers of `s` to those of `u` at a tick (R90), guards
included. The tick itself passes afterwards. -/
inductive Ran (s : State) : State → Prop
  | reset (hr : s.input.rst = true) : Ran s s.resetRegisters
  | idle (hr : s.input.rst = false) (h : s.st = St.idle) (hs : s.input.start = false) : Ran s s
  | read (hr : s.input.rst = false) (h : s.st = St.idle) (hs : s.input.start = true) :
      Ran s (s.clearSession.clearReport.clearMeasurement.enter St.startLow)
  | timedStay (hr : s.input.rst = false)
      (h : s.st = St.startLow ∨ s.st = St.startHigh ∨ s.st = St.respSettle ∨ s.st = St.respLow ∨ s.st = St.bitSample)
      (hc : s.cnt + 1 ≠ cntBound s.cfg s.st) : Ran s (s.setCnt (s.cnt + 1))
  | pollStay (hr : s.input.rst = false)
      (h : (s.st = St.respWaitLow ∧ s.lineIn = true) ∨ (s.st = St.bitWaitHigh ∧ s.lineIn = false) ∨
        (s.st = St.bitWaitLow ∧ s.lineIn = true))
      (hc : s.cnt + 1 ≠ cntBound s.cfg s.st) : Ran s (s.setCnt (s.cnt + 1))
  | timeout (hr : s.input.rst = false)
      (h : (s.st = St.respWaitLow ∧ s.lineIn = true) ∨ (s.st = St.bitWaitHigh ∧ s.lineIn = false) ∨
        (s.st = St.bitWaitLow ∧ s.lineIn = true))
      (hc : s.cnt + 1 = cntBound s.cfg s.st) : Ran s ((s.reportFailure .timeout).enter St.idle)
  | startLow (hr : s.input.rst = false) (h : s.st = St.startLow) (hc : s.cnt + 1 = cntBound s.cfg s.st) :
      Ran s (s.enter St.startHigh)
  | startHigh (hr : s.input.rst = false) (h : s.st = St.startHigh) (hc : s.cnt + 1 = cntBound s.cfg s.st) :
      Ran s (s.enter St.respSettle)
  | noResponse (hr : s.input.rst = false) (h : s.st = St.respSettle) (hc : s.cnt + 1 = cntBound s.cfg s.st)
      (hl : s.lineIn = true) : Ran s ((s.reportFailure .noResponse).enter St.idle)
  | respSettle (hr : s.input.rst = false) (h : s.st = St.respSettle) (hc : s.cnt + 1 = cntBound s.cfg s.st)
      (hl : s.lineIn = false) : Ran s (s.enter St.respLow)
  | invalidHandshake (hr : s.input.rst = false) (h : s.st = St.respLow) (hc : s.cnt + 1 = cntBound s.cfg s.st)
      (hl : s.lineIn = false) : Ran s ((s.reportFailure .invalidHandshake).enter St.idle)
  | respLow (hr : s.input.rst = false) (h : s.st = St.respLow) (hc : s.cnt + 1 = cntBound s.cfg s.st)
      (hl : s.lineIn = true) : Ran s (s.enter St.respWaitLow)
  | respWaitLow (hr : s.input.rst = false) (h : s.st = St.respWaitLow) (hl : s.lineIn = false) :
      Ran s (s.enter St.bitWaitHigh)
  | bitWaitHigh (hr : s.input.rst = false) (h : s.st = St.bitWaitHigh) (hl : s.lineIn = true) :
      Ran s (s.enter St.bitSample)
  | bitSample (hr : s.input.rst = false) (h : s.st = St.bitSample) (hc : s.cnt + 1 = cntBound s.cfg s.st) :
      Ran s ((s.putByte s.byteIndex (sliceInto (s.buf.read s.byteIndex) s.lineIn)).enter St.bitWaitLow)
  | nextBit (hr : s.input.rst = false) (h : s.st = St.bitWaitLow) (hl : s.lineIn = false) (hb : s.bitn ≠ 39#6) :
      Ran s ((s.setBitn (s.bitn + 1)).enter St.bitWaitHigh)
  | lastBit (hr : s.input.rst = false) (h : s.st = St.bitWaitLow) (hl : s.lineIn = false) (hb : s.bitn = 39#6) :
      Ran s (s.enter St.check)
  | checkOk (hr : s.input.rst = false) (h : s.st = St.check) (hk : checksum s.buf = fieldC s.buf) :
      Ran s (((s.latch (decodeHum s.buf) (decodeTmag s.buf) (decodeTneg s.buf)).reportOk).enter St.idle)
  | checkFail (hr : s.input.rst = false) (h : s.st = St.check) (hk : checksum s.buf ≠ fieldC s.buf) :
      Ran s ((s.reportFailure .checksumMismatch).enter St.idle)

theorem ran_of_exec (s : State) {i : Instr} {u : State} (hi : decodeWord s.commandWord = .ok i) (hu : exec i s = .next u) :
    Ran s u := by
  rw [decode_commandWord] at hi
  by_cases hr : s.input.rst = true
  · rw [if_pos hr] at hi
    cases hi
    rw [execReset_cases hu]
    exact .reset hr
  · rw [if_neg hr] at hi
    replace hr : s.input.rst = false := by simpa using hr
    split_ifs at hi with h0 hs h1 h2 h3 h4 h5 h6 h7 h8 h9 <;> cases hi
    · rw [execRead_cases hu]; exact .read hr h0 hs
    · rw [execIdle_cases hu]; exact .idle hr h0 (by simpa using hs)
    · rcases execStartLow_cases hu with ⟨hc, rfl⟩ | ⟨hc, rfl⟩
      · exact .startLow hr h1 (by simpa +decide [cntBound, h1] using hc)
      · exact .timedStay hr (by simp [h1]) (by simpa +decide [cntBound, h1] using hc)
    · rcases execStartHigh_cases hu with ⟨hc, rfl⟩ | ⟨hc, rfl⟩
      · exact .startHigh hr h2 (by simpa +decide [cntBound, h2] using hc)
      · exact .timedStay hr (by simp [h2]) (by simpa +decide [cntBound, h2] using hc)
    · rcases execRespSettle_cases hu with ⟨hc, hl, rfl⟩ | ⟨hc, hl, rfl⟩ | ⟨hc, rfl⟩
      · exact .noResponse hr h3 (by simpa +decide [cntBound, h3] using hc) hl
      · exact .respSettle hr h3 (by simpa +decide [cntBound, h3] using hc) hl
      · exact .timedStay hr (by simp [h3]) (by simpa +decide [cntBound, h3] using hc)
    · rcases execRespLow_cases hu with ⟨hc, hl, rfl⟩ | ⟨hc, hl, rfl⟩ | ⟨hc, rfl⟩
      · exact .invalidHandshake hr h4 (by simpa +decide [cntBound, h4] using hc) hl
      · exact .respLow hr h4 (by simpa +decide [cntBound, h4] using hc) hl
      · exact .timedStay hr (by simp [h4]) (by simpa +decide [cntBound, h4] using hc)
    · rcases execRespWaitLow_cases hu with ⟨hl, rfl⟩ | ⟨hl, hc, rfl⟩ | ⟨hl, hc, rfl⟩
      · exact .respWaitLow hr h5 hl
      · exact .timeout hr (by simpa +decide [h5] using hl) (by simpa +decide [cntBound, h5] using hc)
      · exact .pollStay hr (by simpa +decide [h5] using hl) (by simpa +decide [cntBound, h5] using hc)
    · rcases execBitWaitHigh_cases hu with ⟨hl, rfl⟩ | ⟨hl, hc, rfl⟩ | ⟨hl, hc, rfl⟩
      · exact .bitWaitHigh hr h6 hl
      · exact .timeout hr (by simpa +decide [h6] using hl) (by simpa +decide [cntBound, h6] using hc)
      · exact .pollStay hr (by simpa +decide [h6] using hl) (by simpa +decide [cntBound, h6] using hc)
    · rcases execBitSample_cases hu with ⟨hc, rfl⟩ | ⟨hc, rfl⟩
      · exact .bitSample hr h7 (by simpa +decide [cntBound, h7] using hc)
      · exact .timedStay hr (by simp [h7]) (by simpa +decide [cntBound, h7] using hc)
    · rcases execBitWaitLow_cases hu with ⟨hl, hb, rfl⟩ | ⟨hl, hb, rfl⟩ | ⟨hl, hc, rfl⟩ | ⟨hl, hc, rfl⟩
      · exact .lastBit hr h8 hl hb
      · exact .nextBit hr h8 hl hb
      · exact .timeout hr (by simpa +decide [h8] using hl) (by simpa +decide [cntBound, h8] using hc)
      · exact .pollStay hr (by simpa +decide [h8] using hl) (by simpa +decide [cntBound, h8] using hc)
    · rcases execCheck_cases hu with ⟨hk, rfl⟩ | ⟨hk, rfl⟩
      · exact .checkOk hr h9 hk
      · exact .checkFail hr h9 hk

/-- A step that answers: the configuration is legal, some rule ran, and the tick passed. -/
theorem step_ran (h : step s = .next t) : s.cfg.legal = true ∧ ∃ u, Ran s u ∧ t = u.advance := by
  obtain ⟨hc, i, u, hi, hu, rfl⟩ := step_next h
  exact ⟨hc, u, ran_of_exec s hi hu, rfl⟩

/-- The configuration bounds R5 gives, as inequalities. -/
theorem legal_bounds {c : Config} (h : c.legal = true) :
    (1 ≤ c.tStartLow ∧ c.tStartLow ≤ 2 ^ c.wCnt) ∧ (1 ≤ c.tReleaseHigh ∧ c.tReleaseHigh ≤ 2 ^ c.wCnt) ∧
    (1 ≤ c.tRespSettle ∧ c.tRespSettle ≤ 2 ^ c.wCnt) ∧ (1 ≤ c.tRespLow ∧ c.tRespLow ≤ 2 ^ c.wCnt) ∧
    (1 ≤ c.tBitSample ∧ c.tBitSample ≤ 2 ^ c.wCnt) ∧ (1 ≤ c.tEdgeTimeout ∧ c.tEdgeTimeout ≤ 2 ^ c.wCnt) ∧
    0 < c.tickUs := by
  simpa [Config.legal, Config.durations, and_assoc] using h

/-- In a state's range the counter register holds `cnt + 1` whole: the truncation of `setCnt` drops nothing (R150). -/
theorem setCnt_succ {d : Nat} (hd : d ≤ 2 ^ s.cfg.wCnt) (h : s.cnt + 1 < d) :
    s.setCnt (s.cnt + 1) = { s with cnt := s.cnt + 1 } := by
  simp [State.setCnt, Nat.mod_eq_of_lt (lt_of_lt_of_le h hd)]

theorem cntBound_le {c : Config} (h : c.legal = true) (st : StateCode) : 1 ≤ cntBound c st ∧ cntBound c st ≤ 2 ^ c.wCnt := by
  have := legal_bounds h
  have : 1 ≤ 2 ^ c.wCnt := Nat.one_le_two_pow
  unfold cntBound
  split_ifs <;> omega

/-! ## Runs -/

theorem runFor_succ {n : Nat} (h : step s = .next t) : runFor (n + 1) s = runFor n t := by
  simp [runFor, h]

/-- A run of `m + n` ticks is a run of `m` and then one of `n`. -/
theorem runFor_add {m n : Nat} {u : State} (h : runFor m s = .next u) : runFor (m + n) s = runFor n u := by
  induction m generalizing s with
  | zero => rw [Nat.zero_add]; simp only [runFor, Host.Outcome.next.injEq] at h; rw [h]
  | succ m ih =>
    rw [Nat.add_right_comm]
    cases hs : step s with
    | next v =>
      rw [runFor_succ hs] at h ⊢
      exact ih h
    | fault r => simp [runFor, hs] at h
    | refused r => simp [runFor, hs] at h

/-- A run that answers answered at every earlier tick. -/
theorem runFor_earlier {m n : Nat} (h : runFor (m + n) s = .next t) : ∃ u, runFor m s = .next u := by
  induction m generalizing s with
  | zero => exact ⟨s, rfl⟩
  | succ m ih =>
    rw [Nat.add_right_comm] at h
    cases hs : step s with
    | next v =>
      rw [runFor_succ hs] at h ⊢
      exact ih h
    | fault r => simp [runFor, hs] at h
    | refused r => simp [runFor, hs] at h

theorem Ran.inputAt {u : State} (h : Ran s u) (n : Nat) : u.inputAt n = s.inputAt n := by
  cases h <;> rfl

theorem Ran.cfg {u : State} (h : Ran s u) : u.cfg = s.cfg := by
  cases h <;> rfl

/-- The tick's inputs do not depend on the rule that runs: after a step the inputs ahead are one tick nearer. -/
theorem step_inputAt (h : step s = .next t) (n : Nat) : t.inputAt n = s.inputAt (n + 1) := by
  obtain ⟨-, u, hu, rfl⟩ := step_ran h
  rw [State.advance_inputAt, hu.inputAt]

end Sys2Proof.Machine
end

