-- ==== Sys2Proof/Laws/Runs.lean ====
section
/-! SUPPORT. Runs of many ticks: the converse of `step_ran`, how long a timed or a poll state is stayed in, and what a run never
changes. -/

namespace Sys2Proof.Machine

variable {s t u : State}

/-- `s` in state `c` with `cnt = k`, `n` ticks later. -/
def State.later (s : State) (c : StateCode) (k n : Nat) : State :=
  { s with st := c, cnt := k, tick := s.tick + n, pending := s.pending.drop n }

@[simp] theorem State.later_st (c : StateCode) (k n : Nat) : (s.later c k n).st = c := rfl
@[simp] theorem State.later_cnt (c : StateCode) (k n : Nat) : (s.later c k n).cnt = k := rfl
@[simp] theorem State.later_bitn (c : StateCode) (k n : Nat) : (s.later c k n).bitn = s.bitn := rfl
@[simp] theorem State.later_buf (c : StateCode) (k n : Nat) : (s.later c k n).buf = s.buf := rfl
@[simp] theorem State.later_done (c : StateCode) (k n : Nat) : (s.later c k n).done = s.done := rfl
@[simp] theorem State.later_status (c : StateCode) (k n : Nat) : (s.later c k n).status = s.status := rfl
@[simp] theorem State.later_errState (c : StateCode) (k n : Nat) : (s.later c k n).errState = s.errState := rfl
@[simp] theorem State.later_mHum (c : StateCode) (k n : Nat) : (s.later c k n).mHum = s.mHum := rfl
@[simp] theorem State.later_mTmag (c : StateCode) (k n : Nat) : (s.later c k n).mTmag = s.mTmag := rfl
@[simp] theorem State.later_mTneg (c : StateCode) (k n : Nat) : (s.later c k n).mTneg = s.mTneg := rfl
@[simp] theorem State.later_cfg (c : StateCode) (k n : Nat) : (s.later c k n).cfg = s.cfg := rfl

@[simp] theorem State.later_inputAt (c : StateCode) (k n j : Nat) : (s.later c k n).inputAt j = s.inputAt (n + j) := by
  simp only [State.inputAt, State.later, List.getElem?_drop, Nat.add_assoc]

@[simp] theorem State.later_lineAt (c : StateCode) (k n j : Nat) : (s.later c k n).lineAt j = s.lineAt (n + j) := by
  simp [State.lineAt]

theorem State.later_later (c d : StateCode) (k l m n : Nat) : (s.later c k m).later d l n = s.later d l (m + n) := by
  simp [State.later, Nat.add_assoc, List.drop_drop]

theorem State.later_self : s.later s.st s.cnt 0 = s := by simp [State.later]

theorem State.enter_advance (c : StateCode) (k n : Nat) (d : StateCode) :
    ((s.later c k n).enter d).advance = s.later d 0 (n + 1) := by
  simp [State.later, State.enter, State.advance, Nat.add_assoc, List.tail_drop]

/-- A rule whose guards hold is the rule that runs. -/
theorem step_of_ran (hc : s.cfg.legal = true) (h : Ran s u) : step s = .next u.advance := by
  cases h with
  | reset hr => exact step_of_exec hc (by rw [decode_commandWord, if_pos hr]) rfl
  | idle hr h hs => exact step_of_exec hc (i := .idle) (by simp [decode_commandWord, hr, h, hs]) rfl
  | read hr h hs => exact step_of_exec hc (i := .read) (by simp [decode_commandWord, hr, h, hs]) rfl
  | timedStay hr h hk =>
    rcases h with h | h | h | h | h <;> simp +decide [cntBound, h] at hk
    · exact step_of_exec hc (i := .startLow s.input.start) (by simp +decide [decode_commandWord, hr, h])
        (by simp [exec, execStartLow, timed, hk, stay])
    · exact step_of_exec hc (i := .startHigh s.input.start) (by simp +decide [decode_commandWord, hr, h])
        (by simp [exec, execStartHigh, timed, hk, stay])
    · exact step_of_exec hc (i := .respSettle s.input.start) (by simp +decide [decode_commandWord, hr, h])
        (by simp [exec, execRespSettle, timed, hk, stay])
    · exact step_of_exec hc (i := .respLow s.input.start) (by simp +decide [decode_commandWord, hr, h])
        (by simp [exec, execRespLow, timed, hk, stay])
    · exact step_of_exec hc (i := .bitSample s.input.start) (by simp +decide [decode_commandWord, hr, h])
        (by simp [exec, execBitSample, timed, hk, stay])
  | pollStay hr h hk =>
    rcases h with ⟨h, hl⟩ | ⟨h, hl⟩ | ⟨h, hl⟩ <;> simp +decide [cntBound, h] at hk
    · exact step_of_exec hc (i := .respWaitLow s.input.start) (by simp +decide [decode_commandWord, hr, h])
        (by simp [exec, execRespWaitLow, poll, hl, hk, stay])
    · exact step_of_exec hc (i := .bitWaitHigh s.input.start) (by simp +decide [decode_commandWord, hr, h])
        (by simp [exec, execBitWaitHigh, poll, hl, hk, stay])
    · exact step_of_exec hc (i := .bitWaitLow s.input.start) (by simp +decide [decode_commandWord, hr, h])
        (by simp [exec, execBitWaitLow, poll, hl, hk, stay])
  | timeout hr h hk =>
    rcases h with ⟨h, hl⟩ | ⟨h, hl⟩ | ⟨h, hl⟩ <;> simp +decide [cntBound, h] at hk
    · exact step_of_exec hc (i := .respWaitLow s.input.start) (by simp +decide [decode_commandWord, hr, h])
        (by simp [exec, execRespWaitLow, poll, hl, hk, raiseFail])
    · exact step_of_exec hc (i := .bitWaitHigh s.input.start) (by simp +decide [decode_commandWord, hr, h])
        (by simp [exec, execBitWaitHigh, poll, hl, hk, raiseFail])
    · exact step_of_exec hc (i := .bitWaitLow s.input.start) (by simp +decide [decode_commandWord, hr, h])
        (by simp [exec, execBitWaitLow, poll, hl, hk, raiseFail])
  | startLow hr h hk =>
    simp +decide [cntBound, h] at hk
    exact step_of_exec hc (i := .startLow s.input.start) (by simp +decide [decode_commandWord, hr, h])
      (by simp [exec, execStartLow, timed, hk])
  | startHigh hr h hk =>
    simp +decide [cntBound, h] at hk
    exact step_of_exec hc (i := .startHigh s.input.start) (by simp +decide [decode_commandWord, hr, h])
      (by simp [exec, execStartHigh, timed, hk])
  | noResponse hr h hk hl =>
    simp +decide [cntBound, h] at hk
    exact step_of_exec hc (i := .respSettle s.input.start) (by simp +decide [decode_commandWord, hr, h])
      (by simp [exec, execRespSettle, timed, hk, hl, raiseFail])
  | respSettle hr h hk hl =>
    simp +decide [cntBound, h] at hk
    exact step_of_exec hc (i := .respSettle s.input.start) (by simp +decide [decode_commandWord, hr, h])
      (by simp [exec, execRespSettle, timed, hk, hl])
  | invalidHandshake hr h hk hl =>
    simp +decide [cntBound, h] at hk
    exact step_of_exec hc (i := .respLow s.input.start) (by simp +decide [decode_commandWord, hr, h])
      (by simp [exec, execRespLow, timed, hk, hl, raiseFail])
  | respLow hr h hk hl =>
    simp +decide [cntBound, h] at hk
    exact step_of_exec hc (i := .respLow s.input.start) (by simp +decide [decode_commandWord, hr, h])
      (by simp [exec, execRespLow, timed, hk, hl])
  | respWaitLow hr h hl =>
    exact step_of_exec hc (i := .respWaitLow s.input.start) (by simp +decide [decode_commandWord, hr, h])
      (by simp [exec, execRespWaitLow, poll, hl])
  | bitWaitHigh hr h hl =>
    exact step_of_exec hc (i := .bitWaitHigh s.input.start) (by simp +decide [decode_commandWord, hr, h])
      (by simp [exec, execBitWaitHigh, poll, hl])
  | bitSample hr h hk =>
    simp +decide [cntBound, h] at hk
    exact step_of_exec hc (i := .bitSample s.input.start) (by simp +decide [decode_commandWord, hr, h])
      (by simp [exec, execBitSample, timed, hk, State.loadByte])
  | nextBit hr h hl hb =>
    exact step_of_exec hc (i := .bitWaitLow s.input.start) (by simp +decide [decode_commandWord, hr, h])
      (by simp [exec, execBitWaitLow, poll, hl, hb])
  | lastBit hr h hl hb =>
    exact step_of_exec hc (i := .bitWaitLow s.input.start) (by simp +decide [decode_commandWord, hr, h])
      (by simp [exec, execBitWaitLow, poll, hl, hb])
  | checkOk hr h hk =>
    exact step_of_exec hc (i := .check s.input.start) (by simp +decide [decode_commandWord, hr, h])
      (by simp [exec, execCheck, hk])
  | checkFail hr h hk =>
    exact step_of_exec hc (i := .check s.input.start) (by simp +decide [decode_commandWord, hr, h])
      (by simp [exec, execCheck, hk, raiseFail])

theorem runFor_one (h : step s = .next t) : runFor 1 s = .next t := runFor_succ h

/-- A run changes neither the configuration nor the inputs to come. -/
theorem runFor_environment {n : Nat} (h : runFor n s = .next t) :
    t.cfg = s.cfg ∧ ∀ j, t.inputAt j = s.inputAt (n + j) := by
  induction n generalizing s with
  | zero => cases h; simp
  | succ n ih =>
    cases hs : step s with
    | next v =>
      rw [runFor_succ hs] at h
      obtain ⟨hc, hi⟩ := ih h
      obtain ⟨-, u, hu, rfl⟩ := step_ran hs
      refine ⟨hc.trans hu.cfg, fun j => ?_⟩
      rw [hi, State.advance_inputAt, hu.inputAt, Nat.add_right_comm]
    | fault r => simp [runFor, hs] at h
    | refused r => simp [runFor, hs] at h

/-- A state a tick leaves current: a timed state, or a poll state that does not see its level. -/
def Waits (c : StateCode) (line : Bool) : Prop :=
  (c = St.startLow ∨ c = St.startHigh ∨ c = St.respSettle ∨ c = St.respLow ∨ c = St.bitSample) ∨
  (c = St.respWaitLow ∧ line = true) ∨ (c = St.bitWaitHigh ∧ line = false) ∨ (c = St.bitWaitLow ∧ line = true)

/-- Ticks of waiting only count. -/
theorem runFor_wait (hc : s.cfg.legal = true) : ∀ {n : Nat}, NoReset s n → (∀ j < n, Waits s.st (s.lineAt j)) →
    s.cnt + n < cntBound s.cfg s.st → runFor n s = .next (s.later s.st (s.cnt + n) n)
  | 0, _, _, _ => by simp [runFor, State.later_self]
  | n + 1, hr, hw, hk => by
    have ih := runFor_wait hc (n := n) (fun j hj => hr j (Nat.lt_succ_of_lt hj)) (fun j hj => hw j (Nat.lt_succ_of_lt hj))
      (by omega)
    rw [runFor_add ih]
    have hb := (cntBound_le hc s.st).2
    have hr' : (s.later s.st (s.cnt + n) n).input.rst = false := by
      rw [State.input_eq, State.later_inputAt]; exact hr n (Nat.lt_succ_self n)
    have hl' : (s.later s.st (s.cnt + n) n).lineIn = s.lineAt n := by
      rw [State.lineIn_eq, State.later_inputAt]; rfl
    have hne : (s.later s.st (s.cnt + n) n).cnt + 1 ≠
        cntBound (s.later s.st (s.cnt + n) n).cfg (s.later s.st (s.cnt + n) n).st := by
      simp only [State.later_cnt, State.later_cfg, State.later_st]; omega
    have hran : Ran (s.later s.st (s.cnt + n) n)
        ((s.later s.st (s.cnt + n) n).setCnt ((s.later s.st (s.cnt + n) n).cnt + 1)) := by
      rcases hw n (Nat.lt_succ_self n) with h | h
      · exact .timedStay hr' h hne
      · exact .pollStay hr' (by rw [hl']; exact h) hne
    rw [runFor_one (step_of_ran (s := s.later s.st (s.cnt + n) n) hc hran), setCnt_succ (s := s.later s.st (s.cnt + n) n) (d := cntBound s.cfg s.st) hb (by simp only [State.later_cnt]; omega)]
    simp [State.later, State.advance, Nat.add_assoc, List.tail_drop]

/-- After waiting `n` ticks a rule runs at the last of them. -/
theorem runFor_wait_then {n : Nat} (hc : s.cfg.legal = true) (hr : NoReset s n) (hw : ∀ j < n, Waits s.st (s.lineAt j))
    (hk : s.cnt + n < cntBound s.cfg s.st) (h : Ran (s.later s.st (s.cnt + n) n) u) :
    runFor (n + 1) s = .next u.advance := by
  rw [runFor_add (runFor_wait hc hr hw hk)]
  exact runFor_one (step_of_ran (s := s.later s.st (s.cnt + n) n) hc h)

end Sys2Proof.Machine
end

