-- ==== Sys2Proof/Machine/Stimulus.lean ====
section
/-! DEFINITION. The spec's textual notation for host events and line stimuli (30_encoding.md rule R82), as the list of tick
inputs it stands for. It describes the environment; no rule of the block depends on it. -/

namespace Sys2Proof.Machine

/-- A segment of a line stimulus: `L<n>`, `H<n>`, or `X<n>`, whose ticks the block does not read and which is taken as 1. -/
inductive Seg where
  | low (n : Nat)
  | high (n : Nat)
  | any (n : Nat)
deriving DecidableEq, Repr

def segLevels : Seg → List Bool
  | .low n => List.replicate n false
  | .high n => List.replicate n true
  | .any n => List.replicate n true

/-- `line @0: seg seg ...`: the levels tick by tick. -/
def lineWave (segs : List Seg) : List Bool := segs.flatMap segLevels

/-- `bits(b, LOW=a, ZERO=z, ONE=o)`: per bit `L<a> H<z>` for a 0 and `L<a> H<o>` for a 1. -/
def bitSegs (low zeroWidth oneWidth : Nat) (bs : List Bool) : List Seg :=
  bs.flatMap (fun b => [.low low, .high (if b then oneWidth else zeroWidth)])

/-- The bits of a frame in transmission order, F[39] first (R70). -/
def frameBits (f : Frame) : List Bool := (List.range nBits).map (fun j => f.getLsbD (39 - j))

/-- The level at tick `t`: after the last segment the line stays at its last level. -/
def waveAt (wave : List Bool) (t : Nat) : Bool := wave.getD t (wave.getLastD true)

/-- The inputs of the first `n` ticks under `@t start` for each `t` of `starts`, `@t rst` for each `t` of `rsts`, and a wave. -/
def stimulus (starts rsts : List Nat) (wave : List Bool) (n : Nat) : List Inputs :=
  (List.range n).map (fun t => { rst := rsts.contains t, start := starts.contains t, lineIn := waveAt wave t })

end Sys2Proof.Machine
end

