-- ==== Sys2Proof/Tests/Slice0.lean ====
section
/-! SUPPORT. Tests: ill-formed configurations and buffers, decoded words, single steps from spec/95_test_vectors.md, and one
witness for the hypotheses of each obligation. Expected values are the spec's own. -/

namespace Sys2Proof.Tests

open Sys2Proof.Machine

/-! ## Helpers -/

/-- A SMALL state with one listed tick of input, `rst = 0`. -/
def small (st : StateCode) (cnt : Nat) (bitn : BitIndex) (buf : Memory) (start line : Bool) : State :=
  { State.reset with cfg := Config.small, st := st, cnt := cnt, bitn := bitn, buf := buf,
                     pending := [{ rst := false, start := start, lineIn := line }] }

/-- The next state of an answer. -/
def nextOf : Result → Option State
  | .next t => some t
  | .fault _ => none
  | .refused _ => none

/-- The fault of an answer. -/
def faultOf : Result → Option Fault
  | .next _ => none
  | .fault r => some r
  | .refused _ => none

/-- `(st, cnt, bitn)` after a step. -/
def place (r : Result) : Option (StateCode × Nat × BitIndex) := (nextOf r).map fun t => (t.st, t.cnt, t.bitn)

/-- `(st, done, status, err_state)` after a step. -/
def report (r : Result) : Option (StateCode × Bool × StatusCode × StateCode) :=
  (nextOf r).map fun t => (t.st, t.done, t.status, t.errState)

/-! ## Well-formedness (R5) -/

theorem test_ref_and_small_are_legal : Config.ref.legal = true ∧ Config.small.legal = true := by decide

theorem test_only_ref_drives_a_device : Config.ref.drivesDevice = true ∧ Config.small.drivesDevice = false := by decide

theorem test_zero_duration_refused :
    { Config.small with tStartLow := 0 }.legal = false ∧ { Config.small with tReleaseHigh := 0 }.legal = false ∧
    { Config.small with tRespSettle := 0 }.legal = false ∧ { Config.small with tRespLow := 0 }.legal = false ∧
    { Config.small with tBitSample := 0 }.legal = false ∧ { Config.small with tEdgeTimeout := 0 }.legal = false := by
  decide

theorem test_duration_above_counter_refused :
    { Config.small with tStartLow := 65537 }.legal = false ∧ { Config.small with tReleaseHigh := 65537 }.legal = false ∧
    { Config.small with tRespSettle := 65537 }.legal = false ∧ { Config.small with tRespLow := 65537 }.legal = false ∧
    { Config.small with tBitSample := 65537 }.legal = false ∧ { Config.small with tEdgeTimeout := 65537 }.legal = false ∧
    { Config.small with tBitSample := 65536 }.legal = true := by
  decide

theorem test_zero_tick_refused : { Config.small with tickUs := 0 }.legal = false := by decide

theorem test_every_instruction_well_formed : (Instr.reset true 0xF#4).wf = true ∧ Instr.read.wf = true := by decide

theorem test_ill_formed_buffers_refused :
    ¬ Memory.wf [(1, 0x01#8), (0, 0x02#8)] ∧ ¬ Memory.wf [(2, 0x01#8), (2, 0x02#8)] ∧ ¬ Memory.wf [(5, 0x01#8)] ∧
    ¬ Memory.wf [(0, 0x00#8)] ∧ Memory.wf [(0, 0x01#8), (4, 0x02#8)] := by
  decide

/-! ## Decoding: words written out from R74 and R78, `{rst, start, st}` with `rst` at bit 5 -/

theorem test_decode_idle : decodeWord 0b000000#6 = .ok .idle := by rfl
theorem test_decode_start_low : decodeWord 0b000001#6 = .ok (.startLow false) := by rfl
theorem test_decode_start_high : decodeWord 0b000010#6 = .ok (.startHigh false) := by rfl
theorem test_decode_resp_settle : decodeWord 0b000011#6 = .ok (.respSettle false) := by rfl
theorem test_decode_resp_low : decodeWord 0b000100#6 = .ok (.respLow false) := by rfl
theorem test_decode_resp_wait_low : decodeWord 0b010101#6 = .ok (.respWaitLow true) := by rfl
theorem test_decode_bit_wait_high : decodeWord 0b000110#6 = .ok (.bitWaitHigh false) := by rfl
theorem test_decode_bit_sample : decodeWord 0b000111#6 = .ok (.bitSample false) := by rfl
theorem test_decode_bit_wait_low : decodeWord 0b001000#6 = .ok (.bitWaitLow false) := by rfl
theorem test_decode_check : decodeWord 0b011001#6 = .ok (.check true) := by rfl
theorem test_decode_read : decodeWord 0b010000#6 = .ok .read := by rfl
theorem test_decode_reset : decodeWord 0b110110#6 = .ok (.reset true 0b0110#4) := by rfl
theorem test_decode_reserved : decodeWord 0b011111#6 = .error (.reservedState 0xF#4) := by rfl
theorem test_decode_high_bits : decodeByte 0b01000001#8 = .error (.highBits 0b01000001#8) := by rfl

/-- The table's 4-bit rows and 6-bit commands through the host's entry point. -/
theorem test_table_words : decodeTableWord 4 0b0111 = some (.bitSample false) ∧ decodeTableWord 6 0b010000 = some .read ∧
    decodeTableWord 8 0b00101010 = some (.reset false 0xA#4) ∧ decodeTableWord 8 0b00001010 = none := by
  decide

/-- The very next step runs the word that was placed. -/
theorem test_fetch_word : (State.reset.withFetchWord 8 0b00010000).commandWord = 0b010000#6 ∧
    place (step (State.reset.withFetchWord 8 0b00010000)) = some (0x1#4, 0, 0#6) ∧
    place (step (State.reset.withFetchWord 8 0b00000111)) = some (0x7#4, 1, 0#6) := by
  decide

/-! ## One step of each row (95_test_vectors.md) -/

/-- V-HC row 6: with no start nothing changes. -/
theorem test_idle : nextOf (exec .idle (small 0x0#4 0 0#6 [] false true)) = some (small 0x0#4 0 0#6 [] false true) := by
  decide

/-- V-HC row 1: the start state. -/
def afterSuccess : State :=
  { small 0x0#4 0 39#6 [(0, 0x01#8), (1, 0xC8#8)] true true with done := true, status := 1#3, mHum := 0x01C8#16 }

theorem test_read_clears_the_report : report (step afterSuccess) = some (0x1#4, false, 0#3, 0x0#4) := by decide
theorem test_read_clears_the_session :
    (nextOf (step afterSuccess)).map (fun t => (t.cnt, t.bitn, t.buf, t.mHum)) = some (0, 0#6, [], 0x0000#16) := by decide

/-- V-TM ticks 2 and 3. -/
theorem test_start_low_stays : place (step (small 0x1#4 1 0#6 [] false true)) = some (0x1#4, 2, 0#6) := by decide
theorem test_start_low_leaves : place (step (small 0x1#4 2 0#6 [] true false)) = some (0x2#4, 0, 0#6) := by decide

/-- V-TM ticks 4 and 5. -/
theorem test_start_high_stays : place (step (small 0x2#4 0 0#6 [] false true)) = some (0x2#4, 1, 0#6) := by decide
theorem test_start_high_leaves : place (step (small 0x2#4 1 0#6 [] false true)) = some (0x3#4, 0, 0#6) := by decide

/-- V-HS row 1, and V-TM tick 7. -/
theorem test_resp_settle_no_response :
    report (step (small 0x3#4 1 0#6 [] false true)) = some (0x0#4, true, 2#3, 0x3#4) := by decide
theorem test_resp_settle_passes : place (step (small 0x3#4 1 0#6 [] false false)) = some (0x4#4, 0, 0#6) := by decide

/-- V-HS rows 4 and 6. -/
theorem test_resp_low_invalid :
    report (step (small 0x4#4 3 0#6 [] false false)) = some (0x0#4, true, 3#3, 0x4#4) := by decide
theorem test_resp_low_passes : place (step (small 0x4#4 3 0#6 [] false true)) = some (0x5#4, 0, 0#6) := by decide

/-- V-PL rows 2 and 3: at the last tick the level wins over the timeout. -/
theorem test_resp_wait_low_level_wins : place (step (small 0x5#4 5 0#6 [] false false)) = some (0x6#4, 0, 0#6) := by decide
theorem test_resp_wait_low_timeout :
    report (step (small 0x5#4 5 0#6 [] false true)) = some (0x0#4, true, 5#3, 0x5#4) := by decide

/-- V-PL rows 5 and 4. -/
theorem test_bit_wait_high_level_wins : place (step (small 0x6#4 5 0#6 [] false true)) = some (0x7#4, 0, 0#6) := by decide
theorem test_bit_wait_high_timeout :
    report (step (small 0x6#4 5 0#6 [] false false)) = some (0x0#4, true, 5#3, 0x6#4) := by decide

/-- V-AS: `buf[1]` goes from 0x64 to 0xC8 with bit 15, which is 0, and from 0x0C to 0x19 with bit 12, which is 1. -/
theorem test_bit_sample_zero :
    (nextOf (step (small 0x7#4 2 15#6 [(0, 0x01#8), (1, 0x64#8)] false false))).map (fun t => (t.st, t.buf)) =
      some (0x8#4, [(0, 0x01#8), (1, 0xC8#8)]) := by decide
theorem test_bit_sample_one :
    (nextOf (step (small 0x7#4 2 12#6 [(0, 0x01#8), (1, 0x0C#8)] false true))).map (fun t => (t.st, t.buf)) =
      some (0x8#4, [(0, 0x01#8), (1, 0x19#8)]) := by decide

/-- V-TM tick 22, and P1 tick 295. -/
theorem test_bit_wait_low_next_bit : place (step (small 0x8#4 0 0#6 [] false false)) = some (0x6#4, 0, 1#6) := by decide
theorem test_bit_wait_low_last_bit : place (step (small 0x8#4 0 39#6 [] false false)) = some (0x9#4, 0, 39#6) := by decide

/-- P1 tick 296, and P5 tick 297. -/
theorem test_check_ok :
    (nextOf (step (small 0x9#4 0 39#6 (bufferOf [0x01#8, 0xC8#8, 0x00#8, 0xE7#8, 0xB0#8]) false true))).map
      (fun t => ((t.st, t.done, t.status, t.errState), (t.mHum, t.mTmag, t.mTneg))) =
    some ((0x0#4, true, 1#3, 0x0#4), (0x01C8#16, 0x00E7#15, false)) := by decide
theorem test_check_mismatch :
    (nextOf (step (small 0x9#4 0 39#6 (bufferOf [0x01#8, 0xC8#8, 0x00#8, 0xE7#8, 0xB1#8]) false true))).map
      (fun t => ((t.st, t.done, t.status, t.errState), (t.mHum, t.mTmag, t.mTneg))) =
    some ((0x0#4, true, 4#3, 0x9#4), (0#16, 0#15, false)) := by decide

/-- P8 tick 50: a reset during BIT_SAMPLE. -/
theorem test_reset_mid_attempt :
    nextOf (step { small 0x7#4 1 5#6 [] false true with pending := [{ rst := true, start := true, lineIn := true }] }) =
      some { State.reset with cfg := Config.small, tick := 1 } := by decide

/-- V-HC rows 7 and 8. -/
theorem test_reserved_state_faults : faultOf (step (small 0xC#4 0 0#6 [] false true)) = some .reservedState := by decide
theorem test_reserved_status_faults :
    (match ({ small 0x0#4 0 0#6 [] false true with done := true, status := 0b110#3 } : State).hostView with
      | .error r => some r
      | .ok _ => none) = some Fault.reservedStatus := by decide

/-- V-TM, corner: a duration of 1 is current for one tick. -/
theorem test_duration_one :
    place (step { small 0x1#4 0 0#6 [] false true with cfg := { Config.small with tStartLow := 1 } }) =
      some (0x2#4, 0, 0#6) := by decide

/-! ## The datapath (V-CK, V-DC, R149) and the bounds (R95) -/

theorem test_checksums :
    checksum (bufferOf [0xFF#8, 0x01#8, 0x00#8, 0x00#8, 0x00#8]) = 0x00#8 ∧
    checksum (bufferOf [0x55#8, 0x55#8, 0x55#8, 0x55#8, 0x55#8]) = 0x54#8 ∧
    checksum (bufferOf [0x02#8, 0x8C#8, 0x80#8, 0x65#8, 0x73#8]) = 0x73#8 := by decide

theorem test_decode_negative :
    decodeHum (bufferOf [0x02#8, 0x8C#8, 0x80#8, 0x65#8]) = 0x028C#16 ∧
    decodeTmag (bufferOf [0x02#8, 0x8C#8, 0x80#8, 0x65#8]) = 0x0065#15 ∧
    decodeTneg (bufferOf [0x02#8, 0x8C#8, 0x80#8, 0x65#8]) = true ∧ tempTenths true 0x0065#15 = 0xFF9B#16 ∧
    decodeTneg (bufferOf [0x00#8, 0x00#8, 0x80#8, 0x00#8]) = false := by decide

theorem test_largest_fields :
    intPart 13 65535 = 6553#13 ∧ fracPart 65535 = 5#4 ∧ intPart 12 32767 = 3276#12 ∧ fracPart 32767 = 7#4 ∧
    tempTenths false 0x7FFF#15 = 0x7FFF#16 ∧ tempTenths true 0x7FFF#15 = 0x8001#16 := by decide

/-- W3: 45.6 and +23.1. -/
theorem test_encode_measurement :
    encodeMeasurement 456 false 231 = [0x01#8, 0xC8#8, 0x00#8, 0xE7#8, 0xB0#8] := by decide

theorem test_attempt_bounds : nMin Config.ref = 3333 ∧ nMax Config.ref = 19452 ∧ nMin Config.small = 214 ∧
    nMax Config.small = 619 := by decide

theorem test_stimulus_notation :
    lineWave ([.any 1, .low 1] ++ bitSegs 1 2 3 [false, true]) =
      [true, false, false, true, true, false, true, true, true] ∧
    waveAt [true, false] 7 = false ∧ (frameBits 0x8000000001#40).getD 0 false = true ∧ ticksOfMicroseconds Config.ref 40 = 40 := by
  decide

/-! ## Witnesses: for the hypotheses of each obligation, a state that meets them all, at the ends of their ranges -/

/-- A SMALL state just before a whole list of input levels, `start` at its first tick only if `start` says so. -/
def wave (st : StateCode) (bitn : BitIndex) (start : Bool) (levels : List Bool) : State :=
  { State.reset with cfg := Config.small, st := st, bitn := bitn,
                     pending := stimulus (if start then [0] else []) [] levels levels.length }

/-- `small` with `rst = 1`. -/
def smallReset (st : StateCode) : State :=
  { State.reset with cfg := Config.small, st := st, pending := [{ rst := true, start := true, lineIn := true }] }

theorem witness_DecodeOfEncode : (Instr.reset true 0xC#4).wf = true ∧ Instr.idle.wf = true := by decide

theorem witness_EveryWord : decodeWord 0b010000#6 = .ok .read ∧ wordRst 0b011010#6 = false ∧
    wordSt 0b011010#6 = 0xA#4 ∧ 0xA ≤ (0xA#4).toNat ∧ 64 ≤ (64#8).toNat := by
  exact ⟨rfl, by decide⟩

theorem witness_ResetStep : (smallReset 0x8#4).cfg.legal = true ∧ (smallReset 0x8#4).input.rst = true := by decide

theorem witness_StepRuns :
    (small 0x7#4 2 39#6 [] true true).cfg.legal = true ∧ (Instr.bitSample true).wf = true ∧
    decodeWord (packWord (small 0x7#4 2 39#6 [] true true).input.rst (small 0x7#4 2 39#6 [] true true).input.start
      (small 0x7#4 2 39#6 [] true true).st) = .ok (.bitSample true) :=
  ⟨by decide, rfl, rfl⟩

/-- The fault, and the two places no run reaches, `bitn` at both ends of its range. -/
theorem witness_NothingStops : step (small 0xF#4 0 0#6 [] false true) = .fault .reservedState ∧
    (∀ n ∈ [40#6, 63#6], 40 ≤ (small 0x7#4 2 n [] false true).bitn.toNat ∧
      (small 0x7#4 2 n [] false true).cnt + 1 = (small 0x7#4 2 n [] false true).cfg.tBitSample) ∧
    (small 0x8#4 0 63#6 [] false false).bitn = 63#6 ∧ (small 0x8#4 0 63#6 [] false false).lineIn = false :=
  ⟨rfl, by decide⟩

theorem witness_ReservedState : (smallReset 0xA#4).cfg.legal = true ∧ 0xA ≤ (smallReset 0xA#4).st.toNat ∧
    (smallReset 0xA#4).input.rst = true ∧ (small 0xF#4 0 0#6 [] false true).input.rst = false ∧
    0xA ≤ (small 0xF#4 0 0#6 [] false true).st.toNat := by decide

theorem witness_IllegalConfiguration :
    ({ State.reset with cfg := { Config.small with tBitSample := 65537 } } : State).cfg.legal = false ∧
    State.reset.cfg.legal = true := by decide

theorem witness_ReadClears : State.reset.st = St.idle := by decide

/-- Each state rule at the first and at the last tick of its state. -/
theorem witness_LineReservation : ∀ c ∈ [0, 1],
    ((small 0x1#4 (2 * c) 0#6 [] false true).cfg.legal = true ∧ (small 0x1#4 (2 * c) 0#6 [] false true).st = 0x1#4 ∧
      (small 0x1#4 (2 * c) 0#6 [] false true).cnt < (small 0x1#4 (2 * c) 0#6 [] false true).cfg.tStartLow) ∧
    ((small 0x2#4 c 0#6 [] false true).cfg.legal = true ∧ (small 0x2#4 c 0#6 [] false true).st = 0x2#4 ∧
      (small 0x2#4 c 0#6 [] false true).cnt < (small 0x2#4 c 0#6 [] false true).cfg.tReleaseHigh) := by decide

theorem witness_Handshake : ∀ l : Bool,
    ((small 0x3#4 1 0#6 [] false l).cfg.legal = true ∧ (small 0x3#4 1 0#6 [] false l).st = 0x3#4 ∧
      (small 0x3#4 1 0#6 [] false l).cnt < (small 0x3#4 1 0#6 [] false l).cfg.tRespSettle) ∧
    ((small 0x4#4 3 0#6 [] false l).cfg.legal = true ∧ (small 0x4#4 3 0#6 [] false l).st = 0x4#4 ∧
      (small 0x4#4 3 0#6 [] false l).cnt < (small 0x4#4 3 0#6 [] false l).cfg.tRespLow) ∧
    ((small 0x5#4 5 0#6 [] false l).cfg.legal = true ∧ (small 0x5#4 5 0#6 [] false l).st = 0x5#4 ∧
      (small 0x5#4 5 0#6 [] false l).cnt < (small 0x5#4 5 0#6 [] false l).cfg.tEdgeTimeout) := by decide

theorem witness_BitWaits : ∀ l : Bool, ∀ n ∈ [0#6, 39#6],
    ((small 0x6#4 5 n [] false l).cfg.legal = true ∧ (small 0x6#4 5 n [] false l).st = 0x6#4 ∧
      (small 0x6#4 5 n [] false l).cnt < (small 0x6#4 5 n [] false l).cfg.tEdgeTimeout) ∧
    ((small 0x8#4 5 n [] false l).cfg.legal = true ∧ (small 0x8#4 5 n [] false l).st = 0x8#4 ∧
      (small 0x8#4 5 n [] false l).cnt < (small 0x8#4 5 n [] false l).cfg.tEdgeTimeout ∧
      (small 0x8#4 5 n [] false l).bitn.toNat ≤ 39) := by decide

theorem witness_BitSample : ∀ c ∈ [0, 2], ∀ n ∈ [0#6, 39#6],
    (small 0x7#4 c n [] false true).cfg.legal = true ∧ (small 0x7#4 c n [] false true).st = 0x7#4 ∧
    (small 0x7#4 c n [] false true).cnt < (small 0x7#4 c n [] false true).cfg.tBitSample ∧
    (small 0x7#4 c n [] false true).bitn.toNat ≤ 39 ∧
    ((small 0x7#4 c n [] false true).cnt = (small 0x7#4 c n [] false true).cfg.tBitSample - 1 ↔ c = 2) := by decide

theorem witness_Check : (small 0x9#4 0 39#6 [] false true).st = 0x9#4 := by decide

theorem witness_FailRecords : (∃ t, raiseFail .timeout (small 0x6#4 5 9#6 [] false false) = .next t) ∧
    MeasurementZero (small 0x6#4 5 9#6 [] false false) := ⟨⟨_, rfl⟩, by decide⟩

/-- Frames: every row named answers a next state, its failing exit included. -/
theorem witness_StoreNothing :
    (∃ t, exec .idle (small 0x0#4 0 0#6 [] false true) = .next t) ∧
    (∃ t, exec (.startLow true) (small 0x1#4 2 0#6 [] true true) = .next t) ∧
    (∃ t, exec (.startHigh false) (small 0x2#4 1 0#6 [] false true) = .next t) ∧
    (∃ t, exec (.respSettle false) (small 0x3#4 1 0#6 [] false true) = .next t) ∧
    (∃ t, exec (.respLow false) (small 0x4#4 3 0#6 [] false true) = .next t) ∧
    (∃ t, exec (.respWaitLow false) (small 0x5#4 5 0#6 [] false true) = .next t) ∧
    (∃ t, exec (.bitWaitHigh false) (small 0x6#4 5 0#6 [] false true) = .next t) :=
  ⟨⟨_, rfl⟩, ⟨_, rfl⟩, ⟨_, rfl⟩, ⟨_, rfl⟩, ⟨_, rfl⟩, ⟨_, rfl⟩, ⟨_, rfl⟩⟩

theorem witness_BitWaitLowFrame : ∃ t, exec (.bitWaitLow false) (small 0x8#4 5 38#6 [] false false) = .next t := ⟨_, rfl⟩

/-- The last tick stores to byte 4, the first stores nothing. -/
theorem witness_BitSampleFrame :
    (∃ t, exec (.bitSample false) (small 0x7#4 2 39#6 [] false true) = .next t) ∧
    (small 0x7#4 2 39#6 [] false true).byteIndex = 4 ∧
    (∃ t, exec (.bitSample false) (small 0x7#4 0 39#6 [] false true) = .next t) ∧
    (small 0x7#4 0 39#6 [] false true).cnt + 1 ≠ (small 0x7#4 0 39#6 [] false true).cfg.tBitSample :=
  ⟨⟨_, rfl⟩, by decide, ⟨_, rfl⟩, by decide⟩

/-- CHECK with an OK and with another status after it. -/
theorem witness_CheckFrame :
    (nextOf (exec (.check false) (small 0x9#4 0 39#6 [] false true))).map (fun t => t.status) = some Stat.ok ∧
    (nextOf (exec (.check false) (small 0x9#4 0 39#6 [(4, 0x01#8)] false true))).map (fun t => t.status) =
      some Stat.checksumMismatch := by decide

theorem witness_FieldsDecode : fieldT (bufferOf [0x00#8, 0x00#8, 0x80#8, 0x00#8]) = 0x8000#16 ∧
    (small 0x9#4 0 39#6 (bufferOf [0x00#8, 0x00#8, 0x80#8, 0x00#8]) false true).buf =
      bufferOf [0x00#8, 0x00#8, 0x80#8, 0x00#8] := by decide

theorem witness_MeasurementRoundTrips : ∀ neg : Bool, (65535 ≤ 65535 ∧ 32767 ≤ 32767) ∧ ∀ k < nBytes,
    (small 0x9#4 0 39#6 (bufferOf (encodeMeasurement 65535 neg 32767)) false true).buf.read k =
      (encodeMeasurement 65535 neg 32767).getD k 0x00#8 := by decide

theorem witness_LineOutputs : (0x1#4 : StateCode) ≠ 0x2#4 ∧ (0xF#4 : StateCode) ≠ 0x1#4 ∧ (0xF#4 : StateCode) ≠ 0x2#4 := by
  decide

theorem witness_HostView : State.reset.done = false ∧ State.reset.status.toNat ≤ 5 := by decide

/-- A state of a running attempt, and one that a failure left. -/
def midBit : State := small 0x7#4 2 12#6 [(0, 0x01#8), (1, 0x0C#8)] false true
def afterFailure : State :=
  { small 0x0#4 0 39#6 [(4, 0x01#8)] false true with done := true, status := 4#3, errState := 0x9#4 }

theorem midBit_specInvariant : SpecInvariant midBit :=
  ⟨⟨by decide, by decide, by decide, by decide⟩, by decide, by decide⟩
theorem afterFailure_specInvariant : SpecInvariant afterFailure :=
  ⟨⟨by decide, by decide, by decide, by decide⟩, by decide, by decide⟩

theorem witness_SafeState : SafeState midBit ∧ SafeState afterFailure :=
  ⟨⟨by decide, midBit_specInvariant, by decide, by decide, ⟨by decide, by decide, by decide⟩,
      ⟨by decide, by decide, by decide, by decide⟩, by decide⟩,
    ⟨by decide, afterFailure_specInvariant, by decide, by decide, ⟨by decide, by decide, by decide⟩,
      ⟨by decide, by decide, by decide, by decide⟩, by decide⟩⟩
theorem witness_SpecInvariant : (SpecInvariant midBit ∧ midBit.outputs.busy = true) ∧
    (SpecInvariant afterFailure ∧ afterFailure.outputs.status ≠ 1#3) :=
  ⟨⟨midBit_specInvariant, by decide⟩, ⟨afterFailure_specInvariant, by decide⟩⟩
theorem witness_StepAnswers : (∃ t, step midBit = .next t) ∧ ∃ t, step afterFailure = .next t := ⟨⟨_, rfl⟩, ⟨_, rfl⟩⟩
theorem witness_LaunchIsLegal : Config.small.legal = true ∧ Config.ref.legal = true := by decide

/-- A step that changes `st`, and one that stays. -/
theorem witness_CounterClears : midBit.cfg.legal = true ∧ CntInRange midBit ∧
    place (step midBit) = some (0x8#4, 0, 12#6) ∧
    CntInRange (small 0x7#4 1 12#6 [] false true) ∧
    place (step (small 0x7#4 1 12#6 [] false true)) = some (0x7#4, 2, 12#6) := by decide

/-- A step that changes byte 1. -/
theorem witness_ByteTakes : (∃ t, step midBit = .next t) ∧
    ((nextOf (step midBit)).map fun t => t.buf.read 1) ≠ some (midBit.buf.read 1) := ⟨⟨_, rfl⟩, by decide⟩

theorem witness_BufferStaysCanonical : midBit.buf.wf ∧ (bufferOf [0x01#8, 0x0C#8]).wf ∧
    ∀ k < nBytes, midBit.buf.read k = (bufferOf [0x01#8, 0x0C#8]).read k := by decide

/-- Bits 7, 8, 9 and 12 of the frame `01 C8`, of which bit 12 is being sliced. -/
def bitsOfP1 (j : Nat) : Bool := j == 7 || j == 8 || j == 9 || j == 12
theorem witness_BufferHolds : SafeState midBit ∧ midBit.busy = true ∧ BufferHolds bitsOfP1 midBit ∧
    ((nextOf (step midBit)).map fun t => (t.busy, t.st)) = some (true, St.bitWaitLow) ∧
    midBit.lineIn = bitsOfP1 midBit.bitn.toNat := by
  refine ⟨witness_SafeState.1, by decide, ?_, by decide, by decide⟩
  unfold BufferHolds
  decide

theorem witness_FrameIsTheSum : ∀ k < nBytes,
    (Memory.read (bufferOf [0x01#8, 0xC8#8]) k).toNat = firstBits bitsOfP1 k 8 := by decide

/-- R94's three polls and CHECK, each just entered. -/
theorem witness_PollsEntered :
    place (step (small 0x5#4 0 0#6 [] false false)) = some (St.bitWaitHigh, 0, 0#6) ∧
    place (step (small 0x4#4 3 0#6 [] false true)) = some (St.respWaitLow, 0, 0#6) ∧
    place (step (small 0x7#4 2 0#6 [] false true)) = some (St.bitWaitLow, 0, 0#6) ∧
    place (step (small 0x8#4 0 39#6 [] false false)) = some (St.check, 0, 39#6) ∧
    place (step (small 0x9#4 0 39#6 [] false false)) = some (St.idle, 0, 39#6) := by decide

theorem witness_StartIsIgnored : midBit.st ≠ St.idle ∧
    ({ rst := true, start := true, lineIn := true } : Inputs).rst = true := by decide

theorem witness_LineIsIgnored : State.reset.st = St.idle ∧
    (small 0x7#4 1 0#6 [] false true).cnt + 1 ≠ cntBound Config.small St.bitSample := by decide

theorem witness_NoRuleBranches : (∃ t, step midBit = .next t) ∧
    step (small 0xC#4 0 0#6 [] false true) = .fault .reservedState := ⟨⟨_, rfl⟩, rfl⟩

/-- Each timed state, just entered. -/
theorem witness_TimedState : ∀ st ∈ [St.startLow, St.startHigh, St.respSettle, St.respLow, St.bitSample],
    (wave st 39#6 false (List.replicate 4 true)).cfg.legal = true ∧
    (wave st 39#6 false (List.replicate 4 true)).cnt = 0 ∧
    NoReset (wave st 39#6 false (List.replicate 4 true)) (cntBound Config.small st) := by decide

/-- Each poll state: the level at the last allowed tick, and never. -/
theorem witness_Poll : ∀ c ∈ [(St.respWaitLow, false), (St.bitWaitHigh, true), (St.bitWaitLow, false)],
    (wave c.1 39#6 false (List.replicate 5 (!c.2) ++ [c.2])).cfg.legal = true ∧
    (wave c.1 39#6 false (List.replicate 5 (!c.2) ++ [c.2])).cnt = 0 ∧
    NoReset (wave c.1 39#6 false (List.replicate 5 (!c.2) ++ [c.2])) 6 ∧
    (∀ x < 5, (wave c.1 39#6 false (List.replicate 5 (!c.2) ++ [c.2])).lineAt x ≠ c.2) ∧
    (wave c.1 39#6 false (List.replicate 5 (!c.2) ++ [c.2])).lineAt 5 = c.2 ∧
    NoReset (wave c.1 39#6 false (List.replicate 6 (!c.2))) 6 ∧
    ∀ x < 6, (wave c.1 39#6 false (List.replicate 6 (!c.2))).lineAt x ≠ c.2 := by decide

/-- A READ on the line of V-PL: presence 0 at tick 7, acknowledgment 1 at tick 11, the fall at tick `11 + n`. -/
def handshake (n : Nat) : State :=
  wave 0x0#4 0#6 true (lineWave [.any 6, .low 4, .high (n + 1), .low 2])

theorem witness_LineIsDriven : AcceptsRead (handshake 6) ∧ NoReset (handshake 6) (releaseTick (handshake 6).cfg + 1) := by
  decide

/-- The fall at the first and at the last allowed tick. -/
theorem witness_HandshakePasses : (AcceptsRead (handshake 1) ∧ HandshakeAt (handshake 1) 12 ∧ NoReset (handshake 1) 13) ∧
    (AcceptsRead (handshake 6) ∧ HandshakeAt (handshake 6) 17 ∧ NoReset (handshake 6) 18) := by decide

/-- V-FL rows 1 to 3: no response, no acknowledgment, no fall. -/
theorem witness_HandshakeFails :
    (AcceptsRead (wave 0x0#4 0#6 true (List.replicate 18 true)) ∧
      NoReset (wave 0x0#4 0#6 true (List.replicate 18 true)) 18 ∧
      (wave 0x0#4 0#6 true (List.replicate 18 true)).lineAt (presenceTick Config.small) = true) ∧
    (AcceptsRead (wave 0x0#4 0#6 true (lineWave [.any 6, .low 8, .high 4])) ∧
      NoReset (wave 0x0#4 0#6 true (lineWave [.any 6, .low 8, .high 4])) 18 ∧
      (wave 0x0#4 0#6 true (lineWave [.any 6, .low 8, .high 4])).lineAt (presenceTick Config.small) = false ∧
      (wave 0x0#4 0#6 true (lineWave [.any 6, .low 8, .high 4])).lineAt (ackTick Config.small) = false) ∧
    (AcceptsRead (handshake 7) ∧ NoReset (handshake 7) (ackTick Config.small + Config.small.tEdgeTimeout + 1) ∧
      (handshake 7).lineAt (presenceTick Config.small) = false ∧ (handshake 7).lineAt (ackTick Config.small) = true ∧
      ∀ x < ackTick Config.small + Config.small.tEdgeTimeout + 1, ackTick Config.small < x → (handshake 7).lineAt x = true) := by
  decide

/-- The two kinds of pulse only the first clause covers: the line high again at the tick after the sample (V-SL, `H2 L2 H1`), and
a pulse that BIT_WAIT_LOW times out on. -/
theorem witness_CleanPulse_sample : ∀ n ∈ [0#6, 39#6],
    ((wave 0x6#4 n false (lineWave [.low 5, .high 2, .low 2, .high 1])).cfg.legal = true ∧
      (wave 0x6#4 n false (lineWave [.low 5, .high 2, .low 2, .high 1])).st = St.bitWaitHigh ∧
      (wave 0x6#4 n false (lineWave [.low 5, .high 2, .low 2, .high 1])).cnt = 0 ∧
      (wave 0x6#4 n false (lineWave [.low 5, .high 2, .low 2, .high 1])).bitn.toNat ≤ 39 ∧
      CleanPulse (wave 0x6#4 n false (lineWave [.low 5, .high 2, .low 2, .high 1])) 5 2 ∧
      NoReset (wave 0x6#4 n false (lineWave [.low 5, .high 2, .low 2, .high 1])) (5 + Config.small.tBitSample + 1)) ∧
    (CleanPulse (wave 0x6#4 n false (lineWave [.high 10])) 0 10 ∧
      NoReset (wave 0x6#4 n false (lineWave [.high 10])) (0 + Config.small.tBitSample + 1)) := by decide

/-- V-SL: the narrowest pulse, rising at the first tick, and the widest, rising at the last, of bits 0 and 39. -/
theorem witness_CleanPulse : ∀ n ∈ [0#6, 39#6],
    ((wave 0x6#4 n false (lineWave [.high 1, .low 4])).cfg.legal = true ∧
      (wave 0x6#4 n false (lineWave [.high 1, .low 4])).bitn.toNat ≤ 39 ∧
      CleanBit (wave 0x6#4 n false (lineWave [.high 1, .low 4])) 0 0 1 ∧
      NoReset (wave 0x6#4 n false (lineWave [.high 1, .low 4])) (fallTick Config.small 0 1 + 1)) ∧
    (CleanBit (wave 0x6#4 n false (lineWave [.low 5, .high 9, .low 1])) 0 5 9 ∧
      NoReset (wave 0x6#4 n false (lineWave [.low 5, .high 9, .low 1])) (fallTick Config.small 5 9 + 1)) := by decide

/-- The shortest legal configuration: every duration is one tick. -/
def tiny : Config :=
  { tickUs := 1, tStartLow := 1, tReleaseHigh := 1, tRespSettle := 1, tRespLow := 1, tBitSample := 1, tEdgeTimeout := 1,
    wCnt := 1 }

/-- The line of a whole READ under `tiny`: bit `j` rises at `6 + 3 * j` for one tick, bit 39 for two ticks if `last`. -/
def tinyLine (last : Bool) (x : Nat) : Bool :=
  x == 4 || (decide (6 ≤ x) && decide (x ≤ 123) && x % 3 == 0) || (last && x == 124)

/-- A READ at tick 0 on a line. -/
def readOn (line : Nat → Bool) : State :=
  { State.reset with cfg := tiny, pending := (List.range 130).map fun x => { rst := false, start := x == 0, lineIn := line x } }

theorem readOn_inputAt (line : Nat → Bool) {x : Nat} (h : x < 130) :
    (readOn line).inputAt x = { rst := false, start := x == 0, lineIn := line x } := by
  have : (readOn line).pending[x]? = some { rst := false, start := x == 0, lineIn := line x } := by
    simp [readOn, h]
  simp only [State.inputAt, this]

theorem readOn_lineAt (line : Nat → Bool) {x : Nat} (h : x < 130) : (readOn line).lineAt x = line x := by
  simp only [State.lineAt, readOn_inputAt line h]

def tinyRead (last : Bool) : State := readOn (tinyLine last)

/-- The width of bit `j`'s pulse. -/
def tinyWidth (last : Bool) (j : Nat) : Nat := if last && j == 39 then 2 else 1

/-- A whole READ of forty clean zeros (which passes CHECK), and one whose last bit is a 1 (which does not). -/
theorem witness_CleanFrame (last : Bool) :
    AcceptsRead (tinyRead last) ∧ HandshakeAt (tinyRead last) 5 ∧
    (∀ j < nBits, CleanBit (tinyRead last) (bitEntry tiny 5 (fun j => 6 + 3 * j) (tinyWidth last) j) (6 + 3 * j)
      (tinyWidth last j)) ∧
    NoReset (tinyRead last) (fallTick tiny (6 + 3 * 39) (tinyWidth last 39) + 2) := by
  have hw : ∀ j, 1 ≤ tinyWidth last j ∧ tinyWidth last j ≤ 2 ∧ (tinyWidth last j = 2 → last = true ∧ j = 39) ∧
      (last = true → j = 39 → tinyWidth last j = 2) := by
    intro j
    unfold tinyWidth
    split <;> simp_all
  have hf : ∀ j, fallTick tiny (6 + 3 * j) (tinyWidth last j) = 8 + 3 * j := by
    intro j
    have := hw j
    simp only [fallTick, tiny]
    omega
  refine ⟨by cases last <;> decide, by cases last <;> decide, fun j hj => ?_, fun j hj => ?_⟩
  · have he : bitEntry tiny 5 (fun j => 6 + 3 * j) (tinyWidth last) j = 6 + 3 * j := by
      cases j with
      | zero => rfl
      | succ j => simp only [bitEntry, hf]; omega
    have h := hw j
    rw [he]
    change j < 40 at hj
    refine ⟨le_rfl, by simp [tinyRead, readOn, tiny], h.1, by simpa [tinyRead, readOn, tiny] using h.2.1, ?_, ?_, ?_⟩
    · intro x hx h0
      omega
    · intro x hx h0
      rw [tinyRead, readOn_lineAt _ (by omega)]
      rcases (by omega : x = 6 + 3 * j ∨ (x = 7 + 3 * j ∧ tinyWidth last j = 2)) with rfl | ⟨rfl, h2⟩
      · have : (6 + 3 * j) % 3 = 0 := by omega
        have : 6 + 3 * j ≤ 123 := by omega
        simp [tinyLine, *]
      · obtain ⟨rfl, rfl⟩ := h.2.2.1 h2
        rfl
    · intro x hx h0
      change x < fallTick tiny (6 + 3 * j) (tinyWidth last j) + 1 at hx
      rw [hf] at hx
      rw [tinyRead, readOn_lineAt _ (by omega)]
      have h3 : x % 3 ≠ 0 := by omega
      have h4 : x ≠ 4 := by omega
      have h5 : last = true → x ≠ 124 := by
        intro hl hx124
        have := h.2.2.2 hl (by omega)
        omega
      cases last <;> simp_all [tinyLine]
  · rw [hf] at hj
    rw [tinyRead, readOn_inputAt _ (by omega)]

theorem witness_NMax : AcceptsRead (tinyRead false) := by decide

/-- The one run a hypothesis asks for: from IDLE to CHECK in the fewest ticks there are, `N_MIN - 1` of `tiny`. -/
theorem witness_NMin : (tinyRead false).st = St.idle ∧
    (nextOf (runFor 126 (tinyRead false))).map (fun t => t.st) = some St.check := by decide +kernel

/-- The line of the longest READ under `tiny`: bit `j` rises at `6 + 3 * j` for two ticks. -/
def longLine (x : Nat) : Bool := x == 4 || (decide (6 ≤ x) && decide (x ≤ 124) && x % 3 != 2)

/-- Attempts under `tiny`, whose `N_MIN` and `N_MAX` are both 127: one that passes CHECK, one that does not, V-FL row 1, one whose
bit 0 never rises, and one whose bit 39 never falls. -/
def attempts : List (Nat × (Nat → Bool) × StatusCode) :=
  [(127, tinyLine false, Stat.ok), (127, longLine, Stat.checksumMismatch), (4, fun _ => true, Stat.noResponse),
   (7, (· == 4), Stat.timeout), (126, fun x => longLine x || decide (125 ≤ x), Stat.timeout)]

theorem attempts_run : ∀ c ∈ attempts, AcceptsRead (readOn c.2.1) ∧
    (nextOf (runFor c.1 (readOn c.2.1))).map (fun t => (t.st, t.status)) = some (St.idle, c.2.2) ∧
    ∀ j < c.1, 1 ≤ j → (nextOf (runFor j (readOn c.2.1))).map State.busy = some true := by decide +kernel

theorem witness_NMax_bounds : ∀ c ∈ attempts,
    AcceptsRead (readOn c.2.1) ∧ (∃ t, runFor c.1 (readOn c.2.1) = .next t ∧ t.st = St.idle ∧ t.status = c.2.2) ∧
    ∀ j u, 1 ≤ j → j < c.1 → runFor j (readOn c.2.1) = .next u → u.busy = true := by
  intro c hc
  obtain ⟨ha, ht, hb⟩ := attempts_run c hc
  refine ⟨ha, ?_, fun j u h1 hj hu => by simpa [hu, nextOf] using hb j hj h1⟩
  cases h : runFor c.1 (readOn c.2.1) <;> simp_all [nextOf]

theorem witness_NMax_longest :
    AcceptsRead (readOn longLine) ∧ HandshakeAt (readOn longLine) 5 ∧ 5 = ackTick tiny + tiny.tEdgeTimeout ∧
    3 = tiny.tEdgeTimeout + tiny.tBitSample + tiny.tEdgeTimeout ∧
    (∀ j < nBits, CleanBit (readOn longLine) (5 + 1 + j * 3) (5 + tiny.tEdgeTimeout + j * 3)
      (tiny.tBitSample + tiny.tEdgeTimeout)) ∧
    NoReset (readOn longLine) (nMax tiny) := by
  refine ⟨by decide, by decide, rfl, rfl, fun j hj => ?_, fun j hj => ?_⟩
  · change j < 40 at hj
    simp only [CleanBit, fallTick, show (readOn longLine).cfg = tiny from rfl, tiny]
    refine ⟨by omega, by omega, by omega, by omega, fun x hx h0 => by omega, fun x hx h0 => ?_, fun x hx h0 => ?_⟩ <;>
      rw [readOn_lineAt _ (by omega)] <;> simp [longLine] <;> omega
  · change j < 127 at hj
    rw [readOn_inputAt _ (by omega)]

end Sys2Proof.Tests
end

/-! SUPPORT. Which configurations are legal (R5), that every row answers (R161), when a step refuses (R162), and what a step does
to the configuration, the tick number and the inputs to come (R4, R20, R61). -/

namespace Sys2Proof.Machine

variable {s t u : State}

/-! ## Legal configurations -/

/-- R5, duration by duration: `legal_bounds` and its converse. -/
theorem legal_iff_bounds (c : Config) : c.legal = true ↔
    (1 ≤ c.tStartLow ∧ c.tStartLow ≤ 2 ^ c.wCnt) ∧ (1 ≤ c.tReleaseHigh ∧ c.tReleaseHigh ≤ 2 ^ c.wCnt) ∧
    (1 ≤ c.tRespSettle ∧ c.tRespSettle ≤ 2 ^ c.wCnt) ∧ (1 ≤ c.tRespLow ∧ c.tRespLow ≤ 2 ^ c.wCnt) ∧
    (1 ≤ c.tBitSample ∧ c.tBitSample ≤ 2 ^ c.wCnt) ∧ (1 ≤ c.tEdgeTimeout ∧ c.tEdgeTimeout ≤ 2 ^ c.wCnt) ∧
    0 < c.tickUs :=
  ⟨legal_bounds, fun h => by simpa [Config.legal, Config.durations, and_assoc] using h⟩

theorem drivesDevice_iff (c : Config) :
    c.drivesDevice = true ↔ c.legal = true ∧ 1000 ≤ c.tStartLow * c.tickUs := by
  simp [Config.drivesDevice]

/-! ## Every row answers a next state -/

theorem raiseFail_answers (k : ErrorKind) (s : State) : ∃ t, raiseFail k s = .next t := ⟨_, raiseFail_eq k s⟩

theorem stay_answers (s : State) : ∃ t, stay s = .next t := ⟨_, stay_eq s⟩

/-- A timed state answers in every state when its exit action does. -/
theorem timed_answers (d : Nat) {exit : State → Result} (hexit : ∀ s, ∃ t, exit s = .next t) (s : State) :
    ∃ t, timed d exit s = .next t := by
  by_cases hlast : s.cnt + 1 = d
  · rw [timed_last hlast]
    exact hexit s
  · rw [timed_stay hlast]
    exact stay_answers s

/-- A poll state answers in every state when its exit action does. -/
theorem poll_answers (l : Bool) {exit : State → Result} (hexit : ∀ s, ∃ t, exit s = .next t) (s : State) :
    ∃ t, poll l exit s = .next t := by
  unfold poll
  split_ifs
  · exact hexit s
  · exact raiseFail_answers .timeout s
  · exact stay_answers s

theorem execRespSettle_answers (s : State) : ∃ t, execRespSettle s = .next t := by
  unfold execRespSettle
  refine timed_answers _ (fun s => ?_) s
  split_ifs
  · exact raiseFail_answers .noResponse s
  · exact ⟨_, rfl⟩

theorem execRespLow_answers (s : State) : ∃ t, execRespLow s = .next t := by
  unfold execRespLow
  refine timed_answers _ (fun s => ?_) s
  split_ifs
  · exact ⟨_, rfl⟩
  · exact raiseFail_answers .invalidHandshake s

theorem execBitWaitLow_answers (s : State) : ∃ t, execBitWaitLow s = .next t := by
  unfold execBitWaitLow
  refine poll_answers _ (fun s => ?_) s
  split_ifs <;> exact ⟨_, rfl⟩

theorem execCheck_answers (s : State) : ∃ t, execCheck s = .next t := by
  unfold execCheck
  split_ifs
  · exact ⟨_, rfl⟩
  · exact raiseFail_answers .checksumMismatch s

/-- No row of the opcode table faults or is refused, in any state (R161). -/
theorem exec_answers (i : Instr) (s : State) : ∃ t, exec i s = .next t := by
  cases i with
  | idle => exact ⟨_, rfl⟩
  | startLow _ => exact timed_answers s.cfg.tStartLow (fun _ => ⟨_, rfl⟩) s
  | startHigh _ => exact timed_answers s.cfg.tReleaseHigh (fun _ => ⟨_, rfl⟩) s
  | respSettle _ => exact execRespSettle_answers s
  | respLow _ => exact execRespLow_answers s
  | respWaitLow _ => exact poll_answers false (fun _ => ⟨_, rfl⟩) s
  | bitWaitHigh _ => exact poll_answers true (fun _ => ⟨_, rfl⟩) s
  | bitSample _ => exact timed_answers s.cfg.tBitSample (fun _ => ⟨_, rfl⟩) s
  | bitWaitLow _ => exact execBitWaitLow_answers s
  | check _ => exact execCheck_answers s
  | read => exact ⟨_, rfl⟩
  | reset _ _ => exact ⟨_, rfl⟩

/-! ## When a step refuses -/

/-- Refused before the inputs are read, so at a tick with `rst = 1` too (assumption 8). -/
theorem step_of_illegal (hc : s.cfg.legal = false) : step s = .refused .illegalConfiguration := by
  simp [step, hc]

/-- Under a legal configuration a reserved state code is a fault and every row answers, so nothing is refused. -/
theorem step_ne_refused (hc : s.cfg.legal = true) (r : Refusal) : step s ≠ .refused r := by
  cases hi : decodeWord s.commandWord with
  | ok i =>
    obtain ⟨u, hu⟩ := exec_answers i s
    simp [step_of_exec hc hi hu]
  | error e =>
    cases e
    simp [step, hc, hi]

/-! ## The configuration and the tick -/

theorem Ran.tick (h : Ran s u) : u.tick = s.tick := by
  cases h <;> rfl

theorem step_cfg (h : step s = .next t) : t.cfg = s.cfg := by
  obtain ⟨-, u, hran, rfl⟩ := step_ran h
  rw [State.advance_cfg, hran.cfg]

theorem step_tick (h : step s = .next t) : t.tick = s.tick + 1 := by
  obtain ⟨-, u, hran, rfl⟩ := step_ran h
  rw [State.advance_tick, hran.tick]

/-! ## The obligations -/

/-- Settles O43: every rule of `Ran` keeps the configuration, the tick number and the inputs, and the tick that passes after it
is the same for all of them. -/
theorem configurationNeverChanges : Obligations.ConfigurationNeverChanges :=
  fun _ _ h => ⟨step_cfg h, step_tick h, step_inputAt h⟩

/-- Settles O9: R5 is read off the list of durations, and a step refuses only before it decodes, since every row answers. -/
theorem illegalConfigurationIsRefused : Obligations.IllegalConfigurationIsRefused := by
  refine ⟨fun c => ?_, drivesDevice_iff, fun _ => step_of_illegal, fun _ r hc => step_ne_refused hc r⟩
  rw [legal_iff_bounds]
  tauto

end Sys2Proof.Machine

/-! SUPPORT. What a rule does, grouped by what it does to the attempt: one tick inside a running attempt, or one of the five ways
an attempt starts, ends or is absent. The invariants of 10_state.md read only this grouping. -/

namespace Sys2Proof.Machine

variable {s t u : State}

theorem busy_iff : s.busy = true ↔ s.st ≠ St.idle := by simp [State.busy]

/-! ## The rules of `Ran`, grouped -/

/-- The states in which a tick may pass and only `cnt` move (R91, R92). -/
def waitingStates : List StateCode :=
  [St.startLow, St.startHigh, St.respSettle, St.respLow, St.respWaitLow, St.bitWaitHigh, St.bitSample, St.bitWaitLow]

/-- The transitions that do nothing but enter the next state. -/
def plainTransitions : List (StateCode × StateCode) :=
  [(St.startLow, St.startHigh), (St.startHigh, St.respSettle), (St.respSettle, St.respLow), (St.respLow, St.respWaitLow),
   (St.respWaitLow, St.bitWaitHigh), (St.bitWaitHigh, St.bitSample)]

/-- The states that raise each kind of failure (R160). -/
def failingStates : ErrorKind → List StateCode
  | .noResponse => [St.respSettle]
  | .invalidHandshake => [St.respLow]
  | .checksumMismatch => [St.check]
  | .timeout => [St.respWaitLow, St.bitWaitHigh, St.bitWaitLow]

/-- `Continues s u`: a rule takes a running attempt from `s` to `u`, and the attempt still runs. -/
inductive Continues (s : State) : State → Prop
  | wait (h : s.st ∈ waitingStates) (hc : s.cnt + 1 ≠ cntBound s.cfg s.st) : Continues s (s.setCnt (s.cnt + 1))
  | pass {c : StateCode} (h : (s.st, c) ∈ plainTransitions) : Continues s (s.enter c)
  | slice (h : s.st = St.bitSample) :
      Continues s ((s.putByte s.byteIndex (sliceInto (s.buf.read s.byteIndex) s.lineIn)).enter St.bitWaitLow)
  | nextBit (h : s.st = St.bitWaitLow) (hb : s.bitn ≠ 39#6) : Continues s ((s.setBitn (s.bitn + 1)).enter St.bitWaitHigh)
  | lastBit (h : s.st = St.bitWaitLow) (hb : s.bitn = 39#6) : Continues s (s.enter St.check)

/-- `Move s u`: what the rule of a tick does to the registers, seen from the attempt. -/
inductive Move (s : State) : State → Prop
  | reset (hr : s.input.rst = true) : Move s s.resetRegisters
  | idle (hr : s.input.rst = false) (h : s.st = St.idle) : Move s s
  | read (hr : s.input.rst = false) (h : s.st = St.idle) (hs : s.input.start = true) :
      Move s (s.clearSession.clearReport.clearMeasurement.enter St.startLow)
  | running {u : State} (hr : s.input.rst = false) (h : Continues s u) : Move s u
  | success (hr : s.input.rst = false) (h : s.st = St.check) (hk : checksum s.buf = fieldC s.buf) :
      Move s (((s.latch (decodeHum s.buf) (decodeTmag s.buf) (decodeTneg s.buf)).reportOk).enter St.idle)
  | failure (k : ErrorKind) (hr : s.input.rst = false) (h : s.st ∈ failingStates k)
      (hk : k = .checksumMismatch → checksum s.buf ≠ fieldC s.buf) : Move s ((s.reportFailure k).enter St.idle)

theorem Ran.move (h : Ran s u) : Move s u := by
  cases h with
  | reset hr => exact .reset hr
  | idle hr h hs => exact .idle hr h
  | read hr h hs => exact .read hr h hs
  | timedStay hr h hc => exact .running hr (.wait (by rcases h with h | h | h | h | h <;> simp [h, waitingStates]) hc)
  | pollStay hr h hc => exact .running hr (.wait (by rcases h with ⟨h, -⟩ | ⟨h, -⟩ | ⟨h, -⟩ <;> simp [h, waitingStates]) hc)
  | timeout hr h hc =>
    exact .failure .timeout hr (by rcases h with ⟨h, -⟩ | ⟨h, -⟩ | ⟨h, -⟩ <;> simp [h, failingStates]) nofun
  | startLow hr h hc => exact .running hr (.pass (by simp [h, plainTransitions]))
  | startHigh hr h hc => exact .running hr (.pass (by simp [h, plainTransitions]))
  | noResponse hr h hc hl => exact .failure .noResponse hr (by simp [h, failingStates]) nofun
  | respSettle hr h hc hl => exact .running hr (.pass (by simp [h, plainTransitions]))
  | invalidHandshake hr h hc hl => exact .failure .invalidHandshake hr (by simp [h, failingStates]) nofun
  | respLow hr h hc hl => exact .running hr (.pass (by simp [h, plainTransitions]))
  | respWaitLow hr h hl => exact .running hr (.pass (by simp [h, plainTransitions]))
  | bitWaitHigh hr h hl => exact .running hr (.pass (by simp [h, plainTransitions]))
  | bitSample hr h hc => exact .running hr (.slice h)
  | nextBit hr h hl hb => exact .running hr (.nextBit h hb)
  | lastBit hr h hl hb => exact .running hr (.lastBit h hb)
  | checkOk hr h hk => exact .success hr h hk
  | checkFail hr h hk => exact .failure .checksumMismatch hr (by simp [h, failingStates]) fun _ => hk

/-- A step that answers makes a move, and then the tick passes. -/
theorem step_move (h : step s = .next t) : s.cfg.legal = true ∧ ∃ u, Move s u ∧ t = u.advance := by
  obtain ⟨hc, u, hran, ht⟩ := step_ran h
  exact ⟨hc, u, hran.move, ht⟩

theorem waitingStates_ne_idle : ∀ c ∈ waitingStates, c ≠ St.idle := by decide

theorem failingStates_ne_idle (k : ErrorKind) : ∀ c ∈ failingStates k, c ≠ St.idle := by cases k <;> decide

/-- What the six plain transitions have in common. -/
theorem plainTransitions_spec {c d : StateCode} (h : (c, d) ∈ plainTransitions) :
    c ≠ St.idle ∧ d ≠ c ∧ d ∈ followers c ∧ d.toNat ≤ 9 := by
  simp only [plainTransitions, List.mem_cons, Prod.mk.injEq, List.not_mem_nil, or_false] at h
  rcases h with ⟨rfl, rfl⟩ | ⟨rfl, rfl⟩ | ⟨rfl, rfl⟩ | ⟨rfl, rfl⟩ | ⟨rfl, rfl⟩ | ⟨rfl, rfl⟩ <;> decide

theorem Continues.busy_before (h : Continues s u) : s.busy = true := by
  rw [busy_iff]
  cases h with
  | wait h hc => exact waitingStates_ne_idle _ h
  | pass h =>
    obtain ⟨hne, -⟩ := plainTransitions_spec h
    exact hne
  | slice h => rw [h]; decide
  | nextBit h hb => rw [h]; decide
  | lastBit h hb => rw [h]; decide

/-- R30 to R33: while the attempt runs, nothing writes the report or the measurement. -/
theorem Continues.keeps_results (h : Continues s u) : SameReport s u ∧ SameMeasurement s u := by
  cases h <;> exact ⟨⟨rfl, rfl, rfl⟩, rfl, rfl, rfl⟩

theorem Continues.cfg (h : Continues s u) : u.cfg = s.cfg := by cases h <;> rfl

theorem Move.cfg (h : Move s u) : u.cfg = s.cfg := by
  cases h with
  | running hr h => exact h.cfg
  | _ => rfl

/-! ## States follow in stage order (R26) -/

theorem followers_of_waiting : ∀ c ∈ waitingStates, c ∈ followers c := by decide

theorem idle_follows_failing (k : ErrorKind) : ∀ c ∈ failingStates k, St.idle ∈ followers c := by cases k <;> decide

theorem Continues.st_follows (h : Continues s u) : u.st ∈ followers s.st := by
  cases h with
  | wait h hc => exact followers_of_waiting _ h
  | pass h =>
    obtain ⟨-, -, hf, -⟩ := plainTransitions_spec h
    exact hf
  | slice h => rw [h, State.enter_st]; decide
  | nextBit h hb => rw [h, State.enter_st]; decide
  | lastBit h hb => rw [h, State.enter_st]; decide

theorem Move.st_follows (h : Move s u) :
    (s.input.rst = true ∧ u.st = St.idle) ∨ (s.input.rst = false ∧ u.st ∈ followers s.st) := by
  cases h with
  | reset hr => exact .inl ⟨hr, rfl⟩
  | idle hr h => exact .inr ⟨hr, by rw [h]; decide⟩
  | read hr h hs => exact .inr ⟨hr, by rw [h, State.enter_st]; decide⟩
  | running hr h => exact .inr ⟨hr, h.st_follows⟩
  | success hr h hk => exact .inr ⟨hr, by rw [h, State.enter_st]; decide⟩
  | failure k hr h hk => exact .inr ⟨hr, idle_follows_failing k _ h⟩

/-! ## The counter (R27, R93) -/

/-- A tick leaves an idle block alone, counts one tick, or enters a state with `cnt = 0`; the state entered is IDLE or another
one. -/
theorem Move.count_cases (h : Move s u) :
    (s.st = St.idle ∧ u = s) ∨
    (s.cnt + 1 ≠ cntBound s.cfg s.st ∧ u = s.setCnt (s.cnt + 1)) ∨
    (u.cnt = 0 ∧ (u.st = St.idle ∨ u.st ≠ s.st)) := by
  cases h with
  | reset hr => exact .inr (.inr ⟨rfl, .inl rfl⟩)
  | idle hr h => exact .inl ⟨h, rfl⟩
  | read hr h hs => exact .inr (.inr ⟨rfl, .inr (by rw [h, State.enter_st]; decide)⟩)
  | success hr h hk => exact .inr (.inr ⟨rfl, .inl rfl⟩)
  | failure k hr h hk => exact .inr (.inr ⟨rfl, .inl rfl⟩)
  | running hr h =>
    cases h with
    | wait h hc => exact .inr (.inl ⟨hc, rfl⟩)
    | pass h =>
      obtain ⟨-, hne, -⟩ := plainTransitions_spec h
      exact .inr (.inr ⟨rfl, .inr hne⟩)
    | slice h => exact .inr (.inr ⟨rfl, .inr (by rw [h, State.enter_st]; decide)⟩)
    | nextBit h hb => exact .inr (.inr ⟨rfl, .inr (by rw [h, State.enter_st]; decide)⟩)
    | lastBit h hb => exact .inr (.inr ⟨rfl, .inr (by rw [h, State.enter_st]; decide)⟩)

theorem cntInRange_of_cnt_zero (hc : s.cfg.legal = true) (h : s.cnt = 0) : CntInRange s := by
  have := (cntBound_le hc s.st).1
  unfold CntInRange
  omega

/-- Within the range of its state the count is never truncated (R150). -/
theorem setCnt_succ_of_inRange (hc : s.cfg.legal = true) (hs : CntInRange s) (hne : s.cnt + 1 ≠ cntBound s.cfg s.st) :
    s.setCnt (s.cnt + 1) = { s with cnt := s.cnt + 1 } :=
  setCnt_succ (cntBound_le hc s.st).2 (lt_of_le_of_ne hs hne)

theorem Move.keeps_cntInRange (h : Move s u) (hc : s.cfg.legal = true) (hs : CntInRange s) : CntInRange u := by
  rcases h.count_cases with ⟨-, rfl⟩ | ⟨hne, rfl⟩ | ⟨h0, -⟩
  · exact hs
  · rw [setCnt_succ_of_inRange hc hs hne]
    exact lt_of_le_of_ne hs hne
  · exact cntInRange_of_cnt_zero (h.cfg ▸ hc) h0

theorem Move.cnt_zero_of_st_ne (h : Move s u) (hst : u.st ≠ s.st) : u.cnt = 0 := by
  rcases h.count_cases with ⟨-, rfl⟩ | ⟨-, rfl⟩ | ⟨h0, -⟩
  · exact absurd rfl hst
  · exact absurd rfl hst
  · exact h0

theorem Move.cnt_succ_of_st_eq (h : Move s u) (hc : s.cfg.legal = true) (hs : CntInRange s) (hst : u.st = s.st)
    (hbusy : u.st ≠ St.idle) : u.cnt = s.cnt + 1 := by
  rcases h.count_cases with ⟨hidle, rfl⟩ | ⟨hne, rfl⟩ | ⟨-, hidle | hne⟩
  · exact absurd hidle hbusy
  · rw [setCnt_succ_of_inRange hc hs hne]
  · exact absurd hidle hbusy
  · exact absurd hst hne

/-! ## The invariants of R41 -/

theorem errorCode_ne_ok (k : ErrorKind) : errorCode k ≠ Stat.ok := by cases k <;> decide

/-- R41 (a) and (b) together: a running attempt shows the report and the measurement that READ acceptance left. -/
theorem ReportConsistent.of_busy (h : ReportConsistent s) (hb : s.busy = true) :
    s.done = false ∧ s.status = Stat.none ∧ s.errState = 0x0#4 ∧ MeasurementZero s := by
  obtain ⟨hbusy, hnotdone, -, -⟩ := h
  have hd : s.done = false := (hbusy hb).1
  exact ⟨hd, hnotdone hd⟩

/-- A cleared report with a cleared measurement is consistent in every state. -/
theorem reportConsistent_of_cleared (hd : s.done = false) (hst : s.status = Stat.none) (he : s.errState = 0x0#4)
    (hm : MeasurementZero s) : ReportConsistent s :=
  ⟨fun _ => ⟨hd, hst⟩, fun _ => ⟨hst, he, hm⟩, fun _ => hm, fun _ => he⟩

/-- In IDLE with `done = 1` only (c) and (d) are left to show. -/
theorem reportConsistent_of_done (hi : s.st = St.idle) (hd : s.done = true)
    (hm : s.status ≠ Stat.ok → MeasurementZero s) (he : s.status = Stat.ok → s.errState = 0x0#4) : ReportConsistent s :=
  ⟨fun hb => absurd hi (busy_iff.1 hb), fun hnd => by simp [hd] at hnd, hm, he⟩

theorem Continues.keeps_reportConsistent (h : Continues s u) (hs : ReportConsistent s) : ReportConsistent u := by
  obtain ⟨hd, hst, he, hhum, hmag, hneg⟩ := hs.of_busy h.busy_before
  obtain ⟨⟨hd', hst', he'⟩, hhum', hmag', hneg'⟩ := h.keeps_results
  exact reportConsistent_of_cleared (hd'.trans hd) (hst'.trans hst) (he'.trans he)
    ⟨hhum'.trans hhum, hmag'.trans hmag, hneg'.trans hneg⟩

theorem Move.keeps_reportConsistent (h : Move s u) (hs : ReportConsistent s) : ReportConsistent u := by
  cases h with
  | reset hr => exact reportConsistent_of_cleared rfl rfl rfl ⟨rfl, rfl, rfl⟩
  | idle hr h => exact hs
  | read hr h hstart => exact reportConsistent_of_cleared rfl rfl rfl ⟨rfl, rfl, rfl⟩
  | running hr h => exact h.keeps_reportConsistent hs
  | success hr h hk =>
    obtain ⟨-, -, he, -⟩ := hs.of_busy (busy_iff.2 (by rw [h]; decide))
    exact reportConsistent_of_done rfl rfl (fun hne => absurd rfl hne) fun _ => he
  | failure k hr h hk =>
    obtain ⟨-, -, -, hm⟩ := hs.of_busy (busy_iff.2 (failingStates_ne_idle k _ h))
    exact reportConsistent_of_done rfl rfl (fun _ => hm) fun hok => absurd hok (errorCode_ne_ok k)

theorem presentedFrameMatches_of_not_ok (h : s.status ≠ Stat.ok) : PresentedFrameMatches s := fun hok => absurd hok h

theorem Move.keeps_presentedFrameMatches (h : Move s u) (hrep : ReportConsistent s) (hs : PresentedFrameMatches s) :
    PresentedFrameMatches u := by
  cases h with
  | reset hr => exact presentedFrameMatches_of_not_ok (by simp)
  | idle hr h => exact hs
  | read hr h hstart => exact presentedFrameMatches_of_not_ok (by simp)
  | running hr h =>
    obtain ⟨-, hst, -, -⟩ := hrep.of_busy h.busy_before
    obtain ⟨⟨-, hst', -⟩, -⟩ := h.keeps_results
    exact presentedFrameMatches_of_not_ok (by rw [hst', hst]; decide)
  | success hr h hk => exact fun _ => ⟨(checksum_eq_iff s.buf).1 hk, rfl, rfl, rfl⟩
  | failure k hr h hk => exact presentedFrameMatches_of_not_ok (errorCode_ne_ok k)

/-- `bitn + 1` short of bit 39 does not wrap (R28, R135). -/
theorem bitn_succ_toNat {b : BitIndex} (h : b.toNat ≤ 39) : (b + 1).toNat = b.toNat + 1 := by
  bv_omega

theorem Continues.keeps_codesInRange (h : Continues s u) (hs : CodesInRange s) : CodesInRange u := by
  obtain ⟨hst, hbitn⟩ := hs
  cases h with
  | wait h hc => exact ⟨hst, hbitn⟩
  | pass h =>
    obtain ⟨-, -, -, hcode⟩ := plainTransitions_spec h
    exact ⟨hcode, hbitn⟩
  | slice h => exact ⟨by simp, hbitn⟩
  | nextBit h hb =>
    have hne : s.bitn.toNat ≠ 39 := fun h39 => hb (BitVec.eq_of_toNat_eq h39)
    refine ⟨by simp, ?_⟩
    rw [State.enter_bitn, State.setBitn_bitn, bitn_succ_toNat hbitn]
    omega
  | lastBit h hb => exact ⟨by simp, hbitn⟩

theorem Move.keeps_codesInRange (h : Move s u) (hs : CodesInRange s) : CodesInRange u := by
  cases h with
  | reset hr => exact ⟨by simp, by simp⟩
  | idle hr h => exact hs
  | read hr h hstart => exact ⟨by simp, by simp⟩
  | running hr h => exact h.keeps_codesInRange hs
  | success hr h hk => exact ⟨by simp, hs.2⟩
  | failure k hr h hk => exact ⟨by simp, hs.2⟩

theorem Move.keeps_specInvariant (h : Move s u) (hs : SpecInvariant s) : SpecInvariant u := by
  obtain ⟨hrep, hframe, hcodes⟩ := hs
  exact ⟨h.keeps_reportConsistent hrep, h.keeps_presentedFrameMatches hrep hframe, h.keeps_codesInRange hcodes⟩

theorem specInvariant_launchState (c : Config) (n : Nat) (p : List Inputs) : SpecInvariant (launchState c n p) :=
  ⟨reportConsistent_of_cleared rfl rfl rfl ⟨rfl, rfl, rfl⟩, presentedFrameMatches_of_not_ok (by simp [launchState, State.reset]),
   by simp [launchState, State.reset], by simp [launchState, State.reset]⟩

/-- Settles O34: (a) to (f) hold of a cleared block, and each kind of move keeps them; while the attempt runs (a) and (b) fix
the whole report. -/
theorem stepKeepsTheInvariantsOfR41 : Obligations.StepKeepsTheInvariantsOfR41 := by
  refine ⟨fun c n p _ => specInvariant_launchState c n p, fun s t hs h => ?_⟩
  obtain ⟨-, u, hmove, rfl⟩ := step_move h
  exact hmove.keeps_specInvariant hs

/-- Settles O38: each move enters a state its rule names. -/
theorem statesFollowInStageOrder : Obligations.StatesFollowInStageOrder := by
  intro s t h
  obtain ⟨-, u, hmove, rfl⟩ := step_move h
  exact hmove.st_follows

/-- Settles O39: by the three things a move does to `cnt`. -/
theorem counterClearsOnEveryTransition : Obligations.CounterClearsOnEveryTransition := by
  intro s t hc hs h
  obtain ⟨-, u, hmove, rfl⟩ := step_move h
  exact ⟨hmove.cnt_zero_of_st_ne, hmove.cnt_succ_of_st_eq hc hs, hmove.keeps_cntInRange hc hs⟩

end Sys2Proof.Machine

/-! SUPPORT. The invariants beyond R41 (R28, R77, R136, R160 and the buffer's canonical form), and that a safe state never
stops. -/

namespace Sys2Proof.Machine

variable {s t u : State}

/-! ## The outcome pairs (R77) -/

theorem outcomeIsPair_of_cleared (hst : s.status = Stat.none) (he : s.errState = 0x0#4) : OutcomeIsPair s := by
  rw [OutcomeIsPair, hst, he]
  decide

theorem failure_mem_outcomePairs (k : ErrorKind) : ∀ c ∈ failingStates k, (errorCode k, c) ∈ outcomePairs := by
  cases k <;> simp [failingStates, errorCode, outcomePairs]

theorem Move.keeps_outcomeIsPair (h : Move s u) (hrep : ReportConsistent s) (hs : OutcomeIsPair s) : OutcomeIsPair u := by
  cases h with
  | reset hr => exact outcomeIsPair_of_cleared rfl rfl
  | idle hr h => exact hs
  | read hr h hstart => exact outcomeIsPair_of_cleared rfl rfl
  | running hr h =>
    obtain ⟨⟨-, hst, he⟩, -⟩ := h.keeps_results
    rw [OutcomeIsPair, hst, he]
    exact hs
  | success hr h hk =>
    obtain ⟨-, -, he, -⟩ := hrep.of_busy (busy_iff.2 (by rw [h]; decide))
    simp [OutcomeIsPair, outcomePairs, he]
  | failure k hr h hk => exact failure_mem_outcomePairs k _ h

/-! ## Progress through the payload (R28, R136) -/

theorem acquired_of_sliced (h : s.st = St.bitWaitLow ∨ s.st = St.check) : acquired s = s.bitn.toNat + 1 := if_pos h

theorem acquired_of_not_sliced (h : ¬ (s.st = St.bitWaitLow ∨ s.st = St.check)) : acquired s = s.bitn.toNat := if_neg h

theorem bufferProgress_of_idle (h : s.st = St.idle) : BufferProgress s :=
  ⟨fun hm => by simp [h] at hm, fun hc => by simp +decide [h] at hc, fun hb => absurd h (busy_iff.1 hb)⟩

/-- No slice, no progress: where the buffer and the count of sliced bits stay, so do the bounds of the bytes. -/
theorem bytes_bounded_of_same (hb : u.buf = s.buf) (ha : acquired u = acquired s)
    (hs : ∀ k < nBytes, (s.buf.read k).toNat < 2 ^ acquiredIn s k) :
    ∀ k < nBytes, (u.buf.read k).toNat < 2 ^ acquiredIn u k := by
  simpa only [acquiredIn, hb, ha] using hs

/-- The plain transitions of the handshake stay in it, and none of them slices a bit. -/
theorem plainTransitions_progress {c d : StateCode} (h : (c, d) ∈ plainTransitions) :
    (d.toNat ∈ [1, 2, 3, 4, 5] → c.toNat ∈ [1, 2, 3, 4, 5]) ∧ ¬ (c = St.bitWaitLow ∨ c = St.check) ∧
    ¬ (d = St.bitWaitLow ∨ d = St.check) := by
  simp only [plainTransitions, List.mem_cons, Prod.mk.injEq, List.not_mem_nil, or_false] at h
  rcases h with ⟨rfl, rfl⟩ | ⟨rfl, rfl⟩ | ⟨rfl, rfl⟩ | ⟨rfl, rfl⟩ | ⟨rfl, rfl⟩ | ⟨rfl, rfl⟩ <;> decide

/-- Before the payload no bit has been sliced, so the buffer is all zero. -/
theorem bufferZero_of_handshake (h : BufferProgress s) (hst : s.st.toNat ∈ [1, 2, 3, 4, 5]) :
    s.bitn = 0#6 ∧ BufferZero s := by
  obtain ⟨hbitn, -, hbytes⟩ := h
  have hbusy : s.busy = true := busy_iff.2 fun hi => by simp [hi] at hst
  have hns : ¬ (s.st = St.bitWaitLow ∨ s.st = St.check) := by rintro (hi | hi) <;> simp [hi] at hst
  refine ⟨hbitn hst, fun k hk => ?_⟩
  have hlt := hbytes hbusy k hk
  rw [acquiredIn, acquired_of_not_sliced hns, hbitn hst] at hlt
  exact BitVec.eq_of_toNat_eq (by simpa using hlt)

/-- The slice of bit `bitn`: its byte holds `bitn % 8` bits and takes one more, the other bytes keep theirs (R133, R136). -/
theorem slice_bounded {m : Memory} {n : Nat} (b : Bool)
    (hm : ∀ k < nBytes, (m.read k).toNat < 2 ^ min 8 (n - 8 * k)) :
    ∀ k < nBytes, ((m.write (n / 8) (sliceInto (m.read (n / 8)) b)).read k).toNat < 2 ^ min 8 (n + 1 - 8 * k) := by
  intro k hk
  have hlt := hm k hk
  by_cases hkn : k = n / 8
  · subst hkn
    have hc : min 8 (n - 8 * (n / 8)) = n % 8 := by omega
    have hc' : min 8 (n + 1 - 8 * (n / 8)) = n % 8 + 1 := by omega
    rw [Memory.read_write_same m hk, hc']
    rw [hc] at hlt
    exact (sliceInto_toNat _ b (Nat.mod_lt n (by decide)) hlt).2
  · rw [Memory.read_write_other m _ hkn]
    exact lt_of_lt_of_le hlt (Nat.pow_le_pow_right (by decide) (by omega))

theorem Continues.keeps_bufferProgress (h : Continues s u) (hcodes : CodesInRange s) (hs : BufferProgress s) :
    BufferProgress u := by
  have ⟨hearly, _, hbusy⟩ := hs
  have hbytes := hbusy h.busy_before
  cases h with
  | wait h hc => exact hs
  | pass h =>
    obtain ⟨hback, hns, hns'⟩ := plainTransitions_progress h
    exact ⟨fun hm => hearly (hback hm), fun hc => absurd (.inr hc) hns',
      fun _ => bytes_bounded_of_same (s := s) rfl ((acquired_of_not_sliced hns').trans (acquired_of_not_sliced hns).symm) hbytes⟩
  | slice h =>
    have hns : acquired s = s.bitn.toNat := acquired_of_not_sliced (by rw [h]; decide)
    simp only [acquiredIn, hns] at hbytes
    exact ⟨fun hm => by simp at hm, fun hc => by simp +decide at hc, fun _ => slice_bounded s.lineIn hbytes⟩
  | nextBit h hb =>
    have ha : acquired ((s.setBitn (s.bitn + 1)).enter St.bitWaitHigh) = acquired s := by
      rw [acquired_of_sliced (.inl h), acquired_of_not_sliced (by simp +decide)]
      exact bitn_succ_toNat hcodes.2
    exact ⟨fun hm => by simp at hm, fun hc => by simp +decide at hc, fun _ => bytes_bounded_of_same (s := s) rfl ha hbytes⟩
  | lastBit h hb =>
    have ha : acquired (s.enter St.check) = acquired s :=
      (acquired_of_sliced (.inr rfl)).trans (acquired_of_sliced (.inl h)).symm
    exact ⟨fun hm => by simp at hm, fun _ => hb, fun _ => bytes_bounded_of_same (s := s) rfl ha hbytes⟩

theorem Move.keeps_bufferProgress (h : Move s u) (hcodes : CodesInRange s) (hs : BufferProgress s) : BufferProgress u := by
  cases h with
  | reset hr => exact bufferProgress_of_idle rfl
  | idle hr h => exact hs
  | read hr h hstart =>
    exact ⟨fun _ => rfl, fun hc => by simp +decide at hc, fun _ k _ => by simp⟩
  | running hr h => exact h.keeps_bufferProgress hcodes hs
  | success hr h hk => exact bufferProgress_of_idle rfl
  | failure k hr h hk => exact bufferProgress_of_idle rfl

/-! ## What a failure records (R160) -/

theorem failureRecord_of_none_or_ok (h : s.status = Stat.none ∨ s.status = Stat.ok) : FailureRecord s := by
  rcases h with h | h <;> simp +decide [FailureRecord, h]

theorem failureRecord_of_failure {k : ErrorKind} (hs : BufferProgress s) (h : s.st ∈ failingStates k)
    (hk : k = .checksumMismatch → checksum s.buf ≠ fieldC s.buf) :
    FailureRecord ((s.reportFailure k).enter St.idle) := by
  cases k with
  | noResponse =>
    have hzero := bufferZero_of_handshake hs (by rw [List.mem_singleton.1 h]; decide)
    exact ⟨fun _ => hzero, nofun, nofun, nofun⟩
  | invalidHandshake =>
    have hzero := bufferZero_of_handshake hs (by rw [List.mem_singleton.1 h]; decide)
    exact ⟨nofun, fun _ => hzero, nofun, nofun⟩
  | checksumMismatch =>
    obtain ⟨-, hcheck, -⟩ := hs
    exact ⟨nofun, nofun, fun _ => ⟨hcheck (List.mem_singleton.1 h), hk rfl⟩, nofun⟩
  | timeout =>
    refine ⟨nofun, nofun, nofun, fun _ hwait => ?_⟩
    have hst : s.st = 0x5#4 := hwait
    exact bufferZero_of_handshake (s := s) hs (by rw [hst]; decide)

theorem Move.keeps_failureRecord (h : Move s u) (hrep : ReportConsistent s) (hprog : BufferProgress s)
    (hs : FailureRecord s) : FailureRecord u := by
  cases h with
  | reset hr => exact failureRecord_of_none_or_ok (.inl rfl)
  | idle hr h => exact hs
  | read hr h hstart => exact failureRecord_of_none_or_ok (.inl rfl)
  | running hr h =>
    obtain ⟨-, hst, -, -⟩ := hrep.of_busy h.busy_before
    obtain ⟨⟨-, hst', -⟩, -⟩ := h.keeps_results
    exact failureRecord_of_none_or_ok (.inl (hst'.trans hst))
  | success hr h hk => exact failureRecord_of_none_or_ok (.inr rfl)
  | failure k hr h hk => exact failureRecord_of_failure hprog h hk

/-! ## The buffer's canonical form -/

theorem Move.keeps_bufferWf (h : Move s u) (hs : s.buf.wf) : u.buf.wf := by
  cases h with
  | reset hr => exact Memory.wf_nil
  | read hr h hstart => exact Memory.wf_nil
  | running hr h =>
    cases h with
    | slice h => exact Memory.wf_write hs _ _
    | _ => exact hs
  | _ => exact hs

/-! ## Safe states -/

theorem Move.keeps_safeState (h : Move s u) (hs : SafeState s) : SafeState u := by
  obtain ⟨hc, hspec, hcnt, hpair, hprog, hrec, hwf⟩ := hs
  have ⟨hrep, _, hcodes⟩ := hspec
  exact ⟨h.cfg ▸ hc, h.keeps_specInvariant hspec, h.keeps_cntInRange hc hcnt, h.keeps_outcomeIsPair hrep hpair,
    h.keeps_bufferProgress hcodes hprog, h.keeps_failureRecord hrep hprog hrec, h.keeps_bufferWf hwf⟩

/-- Settles O35: each of the invariants is kept by every move, with the help of R41 (a) to (d), of the range of `bitn` and, for
what a failure records, of the progress of the buffer. -/
theorem stepKeepsEverySafetyInvariant : Obligations.StepKeepsEverySafetyInvariant := by
  intro s t hs h
  obtain ⟨-, u, hmove, rfl⟩ := step_move h
  exact hmove.keeps_safeState hs

theorem mem_stateCodes_of_le {c : StateCode} (h : c.toNat ≤ 9) : c ∈ St.idle :: St.check :: waitingStates := by
  revert c
  decide

/-- A state code of the table always selects a row (R75, R90). -/
theorem decode_commandWord_answers (h : s.st.toNat ≤ 9) : ∃ i, decodeWord s.commandWord = .ok i := by
  rw [decode_commandWord]
  by_cases hr : s.input.rst = true
  · exact ⟨_, if_pos hr⟩
  · rw [if_neg hr]
    have hmem := mem_stateCodes_of_le h
    simp only [waitingStates, List.mem_cons, List.not_mem_nil, or_false] at hmem
    rcases hmem with hst | hst | hst | hst | hst | hst | hst | hst | hst | hst <;> simp +decide [hst]

theorem step_answers (hc : s.cfg.legal = true) (h : s.st.toNat ≤ 9) : ∃ t, step s = .next t := by
  obtain ⟨i, hi⟩ := decode_commandWord_answers h
  obtain ⟨u, hu⟩ := exec_answers i s
  exact ⟨u.advance, step_of_exec hc hi hu⟩

/-- Settles O37: a safe state has a legal configuration and a state code of the table, so its row runs and answers. -/
theorem safeStatesNeverStop : Obligations.SafeStatesNeverStop := by
  intro s hs
  have ⟨hc, ⟨_, _, hst, _⟩, _⟩ := hs
  obtain ⟨t, ht⟩ := step_answers hc hst
  exact ⟨t, ht, stepKeepsEverySafetyInvariant s t hs ht⟩

end Sys2Proof.Machine

/-! SUPPORT. Who writes the report and the measurement (R30 to R33), and that no rule reads them (R38). -/

namespace Sys2Proof.Machine

variable {s t u : State}

/-! ## Writers -/

/-- R160, the column of states: each kind is raised only in its own. -/
theorem failingStates_spec {k : ErrorKind} {c : StateCode} (h : c ∈ failingStates k) :
    (k = .noResponse → c = 0x3#4) ∧ (k = .invalidHandshake → c = 0x4#4) ∧ (k = .checksumMismatch → c = 0x9#4) ∧
    (k = .timeout → c = 0x5#4 ∨ c = 0x6#4 ∨ c = 0x8#4) := by
  cases k <;> simpa [failingStates] using h

/-- Settles O40: a running attempt keeps the report, and each other move writes it as its rule says. -/
theorem reportIsWrittenOnlyByItsRules : Obligations.ReportIsWrittenOnlyByItsRules := by
  intro s t hstep
  obtain ⟨-, u, hmove, rfl⟩ := step_move hstep
  cases hmove with
  | reset hr => exact .inr (.inl ⟨hr, rfl, rfl, rfl⟩)
  | idle hr h => exact .inl ⟨rfl, rfl, rfl⟩
  | read hr h hstart => exact .inr (.inr (.inl ⟨h, hstart, rfl, rfl, rfl⟩))
  | running hr h => exact .inl h.keeps_results.1
  | success hr h hk => exact .inr (.inr (.inr (.inl ⟨h, hk, rfl, rfl, rfl⟩)))
  | failure k hr h hk => exact .inr (.inr (.inr (.inr ⟨k, rfl, rfl, rfl, rfl, failingStates_spec h⟩)))

/-- Settles O41: a failure keeps the measurement too, so only the success of CHECK writes a value that is not zero. -/
theorem measurementIsWrittenOnlyByCheck : Obligations.MeasurementIsWrittenOnlyByCheck := by
  intro s t hstep
  obtain ⟨-, u, hmove, rfl⟩ := step_move hstep
  cases hmove with
  | reset hr => exact .inr (.inl ⟨⟨rfl, rfl, rfl⟩, .inl hr⟩)
  | idle hr h => exact .inl ⟨rfl, rfl, rfl⟩
  | read hr h hstart => exact .inr (.inl ⟨⟨rfl, rfl, rfl⟩, .inr ⟨h, hstart⟩⟩)
  | running hr h => exact .inl h.keeps_results.2
  | success hr h hk => exact .inr (.inr ⟨h, rfl, rfl, rfl, rfl⟩)
  | failure k hr h hk => exact .inl ⟨rfl, rfl, rfl⟩

/-! ## No readers -/

/-- The state with the report and the measurement cleared: what is left is all a rule may read (R38). -/
def State.control (s : State) : State := s.clearReport.clearMeasurement

theorem fields_of_control_eq (h : t.control = s.control) :
    t.st = s.st ∧ t.cnt = s.cnt ∧ t.bitn = s.bitn ∧ t.buf = s.buf ∧ SameEnvironment s t :=
  ⟨(congrArg State.st h :), (congrArg State.cnt h :), (congrArg State.bitn h :), (congrArg State.buf h :),
   (congrArg State.cfg h :), (congrArg State.tick h :), (congrArg State.pending h :)⟩

/-- The state with other values in the report and the measurement registers. -/
def State.withResults (s : State) (d : Bool) (c : StatusCode) (e : StateCode) (h : Field16) (m : Mag15) (n : Bool) : State :=
  { s with done := d, status := c, errState := e, mHum := h, mTmag := m, mTneg := n }

/-- No guard of a rule reads the results, so the same rule runs under any others, and does the same to all else. -/
theorem Ran.withResults (hran : Ran s u) (d : Bool) (c : StatusCode) (e : StateCode) (h : Field16) (m : Mag15) (n : Bool) :
    ∃ v, Ran (s.withResults d c e h m n) v ∧ v.control = u.control := by
  cases hran with
  | reset hr => exact ⟨_, .reset hr, rfl⟩
  | idle hr h hs => exact ⟨_, .idle hr h hs, rfl⟩
  | read hr h hs => exact ⟨_, .read hr h hs, rfl⟩
  | timedStay hr h hc => exact ⟨_, .timedStay hr h hc, rfl⟩
  | pollStay hr h hc => exact ⟨_, .pollStay hr h hc, rfl⟩
  | timeout hr h hc => exact ⟨_, .timeout hr h hc, rfl⟩
  | startLow hr h hc => exact ⟨_, .startLow hr h hc, rfl⟩
  | startHigh hr h hc => exact ⟨_, .startHigh hr h hc, rfl⟩
  | noResponse hr h hc hl => exact ⟨_, .noResponse hr h hc hl, rfl⟩
  | respSettle hr h hc hl => exact ⟨_, .respSettle hr h hc hl, rfl⟩
  | invalidHandshake hr h hc hl => exact ⟨_, .invalidHandshake hr h hc hl, rfl⟩
  | respLow hr h hc hl => exact ⟨_, .respLow hr h hc hl, rfl⟩
  | respWaitLow hr h hl => exact ⟨_, .respWaitLow hr h hl, rfl⟩
  | bitWaitHigh hr h hl => exact ⟨_, .bitWaitHigh hr h hl, rfl⟩
  | bitSample hr h hc => exact ⟨_, .bitSample hr h hc, rfl⟩
  | nextBit hr h hl hb => exact ⟨_, .nextBit hr h hl hb, rfl⟩
  | lastBit hr h hl hb => exact ⟨_, .lastBit hr h hl hb, rfl⟩
  | checkOk hr h hk => exact ⟨_, .checkOk hr h hk, rfl⟩
  | checkFail hr h hk => exact ⟨_, .checkFail hr h hk, rfl⟩

/-- A step that faults does so before any rule runs, on the command word alone. -/
theorem step_fault_iff (r : Fault) : step s = .fault r ↔
    s.cfg.legal = true ∧ r = .reservedState ∧ ∃ c, decodeWord s.commandWord = .error (.reservedState c) := by
  unfold step
  split
  · next hc =>
    cases hi : decodeWord s.commandWord with
    | ok i =>
      obtain ⟨u, hu⟩ := exec_answers i s
      simp [hu, advanceResult]
    | error e =>
      cases e
      simp [hc, eq_comm]
  · next hc => simp [hc]

/-- Settles O50: the rule that ran, and the word that faulted, are the same under any other results. -/
theorem noRuleBranchesOnTheReport : Obligations.NoRuleBranchesOnTheReport := by
  intro s d c e h m n
  refine ⟨fun t ht => ?_, fun r hr => ?_⟩
  · obtain ⟨hc, u, hran, rfl⟩ := step_ran ht
    obtain ⟨v, hv, hsame⟩ := hran.withResults d c e h m n
    have hnext : v.advance.control = u.advance.control := congrArg State.advance hsame
    exact ⟨v.advance, step_of_ran (s := s.withResults d c e h m n) hc hv, fields_of_control_eq hnext⟩
  · exact (step_fault_iff (s := s.withResults d c e h m n) r).2 ((step_fault_iff (s := s) r).1 hr)

end Sys2Proof.Machine

/-! SUPPORT. The output ports (R23, R34 to R36) and what the host reads from them (R37, R81). -/

namespace Sys2Proof.Machine

variable {s : State}

/-! ## What the host sees -/

theorem decodeStatus_eq_ok_iff (c : StatusCode) : decodeStatus c = some .ok ↔ c = 1#3 := by
  revert c
  decide

theorem decodeStatus_eq_failed_iff (c : StatusCode) (k : ErrorKind) :
    decodeStatus c = some (.failed k) ↔ c = errorCode k := by
  cases k <;> (revert c; decide)

theorem decodeStatus_eq_none_iff (c : StatusCode) : decodeStatus c = none ↔ 6 ≤ c.toNat := by
  revert c
  decide

/-- Settles O32: the clauses follow the meaning `status` decodes to, one case for each line of `hostView`. -/
theorem hostViewFollowsDoneAndStatus : Obligations.HostViewFollowsDoneAndStatus := by
  intro s
  have hle : s.status.toNat ≤ 5 ↔ decodeStatus s.status ≠ none := by
    rw [Ne, decodeStatus_eq_none_iff]
    omega
  simp only [← decodeStatus_eq_ok_iff, ← decodeStatus_eq_failed_iff, ← decodeStatus_eq_none_iff, hle, State.hostView]
  cases decodeStatus s.status with
  | none => simp [eq_comm (a := Fault.reservedStatus)]
  | some v =>
    cases v with
    | none => simp
    | ok => cases s.done <;> simp [eq_comm]
    | failed k => cases s.done <;> simp

/-! ## The ports -/

theorem tempTenths_toNat (neg : Bool) (m : Mag15) :
    (tempTenths neg m).toNat = if neg then (2 ^ 16 - m.toNat) % 2 ^ 16 else m.toNat := by
  cases neg
  · have : m.toNat < 2 ^ 16 := lt_trans m.isLt (by decide)
    simpa [tempTenths] using this
  · simp [tempTenths]

theorem intPart_toNat {w m : Nat} (h : m / 10 < 2 ^ w) : (intPart w m).toNat = m / 10 := by
  rw [intPart, BitVec.toNat_ofNat, Nat.mod_eq_of_lt h]

theorem fracPart_toNat (m : Nat) : (fracPart m).toNat = m % 10 := by
  rw [fracPart, BitVec.toNat_ofNat]
  omega

theorem humInt_toNat (s : State) : s.outputs.humInt.toNat = s.mHum.toNat / 10 :=
  intPart_toNat (by have := s.mHum.isLt; omega)

theorem tempInt_toNat (s : State) : s.outputs.tempInt.toNat = s.mTmag.toNat / 10 :=
  intPart_toNat (by have := s.mTmag.isLt; omega)

theorem measurementOutputs_zero (h : MeasurementZero s) :
    s.outputs.humTenths = 0 ∧ s.outputs.tempNeg = false ∧ s.outputs.tempMag = 0 ∧ s.outputs.tempTenths = 0 ∧
    s.outputs.humInt = 0 ∧ s.outputs.humFrac = 0 ∧ s.outputs.tempInt = 0 ∧ s.outputs.tempFrac = 0 := by
  obtain ⟨hhum, hmag, hneg⟩ := h
  simp [State.outputs, hhum, hmag, hneg, tempTenths, intPart, fracPart]

/-- Settles O33: by R41 (a) a busy block has the status NONE, by R41 (c) the registers are then zero, and every measurement port
is zero with them. -/
theorem measurementOutputsAreZeroUnlessOk : Obligations.MeasurementOutputsAreZeroUnlessOk := by
  intro s hs h
  obtain ⟨hrep, -, -⟩ := hs
  have ⟨_, _, hzero, _⟩ := hrep
  rcases h with hbusy | hstatus
  · obtain ⟨-, -, -, hm⟩ := hrep.of_busy hbusy
    exact measurementOutputs_zero hm
  · exact measurementOutputs_zero (hzero hstatus)

/-- Settles O5: the registers and the ports of the one reset state. -/
theorem resetStateHoldsTheResetValues : Obligations.ResetStateHoldsTheResetValues := by
  unfold Obligations.ResetStateHoldsTheResetValues
  decide

/-- Settles O31: the table row by row, for every state code. -/
theorem lineOutputsFollowTheState : Obligations.LineOutputsFollowTheState :=
  ⟨by decide, fun _ => ⟨rfl, rfl, rfl, busy_iff⟩⟩

/-- Settles O60: the ports are fields of the record, except `temp_tenths` and the four splits by 10. -/
theorem hostPortsShowTheirRegisters : Obligations.HostPortsShowTheirRegisters := fun s =>
  ⟨busy_iff, rfl, rfl, rfl, rfl, rfl, rfl, rfl, rfl, rfl, rfl, rfl, rfl, rfl, tempTenths_toNat s.mTneg s.mTmag,
    humInt_toNat s, fracPart_toNat s.mHum.toNat, tempInt_toNat s, fracPart_toNat s.mTmag.toNat⟩

end Sys2Proof.Machine

/-! SUPPORT. The payload buffer: its bytes and fields as slices of the frame (R53, R70, R79), who writes a byte (R29, R50, R54),
and its canonical form. -/

namespace Sys2Proof.Machine

variable {s t u : State}

/-! ## The frame -/

theorem frameOf_toNat_fields (m : Memory) :
    (frameOf m).toNat = (fieldH m).toNat * 2 ^ 24 + (fieldT m).toNat * 2 ^ 8 + (fieldC m).toNat := by
  rw [frameOf_toNat, fieldH_toNat, fieldT_toNat, fieldC]
  omega

/-- Bits `lo` to `lo + len - 1` of the frame, on naturals. -/
theorem extractLsb'_frameOf_toNat (m : Memory) (lo len : Nat) : ((frameOf m).extractLsb' lo len).toNat =
    ((fieldH m).toNat * 2 ^ 24 + (fieldT m).toNat * 2 ^ 8 + (fieldC m).toNat) / 2 ^ lo % 2 ^ len := by
  rw [BitVec.extractLsb'_toNat, Nat.shiftRight_eq_div_pow, frameOf_toNat_fields]

theorem frameByte_frameOf (m : Memory) {k : Nat} (hk : k < nBytes) : frameByte (frameOf m) k = m.read k := by
  have h0 := (m.read 0).isLt
  have h1 := (m.read 1).isLt
  have h2 := (m.read 2).isLt
  have h3 := (m.read 3).isLt
  have h4 := (m.read 4).isLt
  apply BitVec.eq_of_toNat_eq
  rw [frameByte, extractLsb'_frameOf_toNat, fieldH_toNat, fieldT_toNat, fieldC]
  interval_cases k <;> omega

theorem fieldH_eq_extractLsb'_frameOf (m : Memory) : fieldH m = (frameOf m).extractLsb' 24 16 := by
  apply BitVec.eq_of_toNat_eq
  rw [extractLsb'_frameOf_toNat]
  omega

theorem fieldT_eq_extractLsb'_frameOf (m : Memory) : fieldT m = (frameOf m).extractLsb' 8 16 := by
  apply BitVec.eq_of_toNat_eq
  rw [extractLsb'_frameOf_toNat]
  omega

theorem fieldS_eq_getLsbD_frameOf (m : Memory) : fieldS m = (frameOf m).getLsbD 23 := by
  rw [fieldS, fieldT_eq_extractLsb'_frameOf, BitVec.getLsbD_extractLsb']
  rfl

theorem fieldM_eq_extractLsb'_frameOf (m : Memory) : fieldM m = (frameOf m).extractLsb' 8 15 := by
  apply BitVec.eq_of_toNat_eq
  rw [fieldM_toNat, ← fieldT_toNat, extractLsb'_frameOf_toNat]
  omega

theorem fieldC_eq_extractLsb'_frameOf (m : Memory) : fieldC m = (frameOf m).extractLsb' 0 8 := by
  apply BitVec.eq_of_toNat_eq
  rw [extractLsb'_frameOf_toNat]
  omega

/-- Settles O30: each byte and each field is the slice of the frame at its place. -/
theorem frameFieldsAreTheBuffers : Obligations.FrameFieldsAreTheBuffers := fun m =>
  ⟨fun _ => frameByte_frameOf m, fieldH_eq_extractLsb'_frameOf m, fieldT_eq_extractLsb'_frameOf m,
    fieldS_eq_getLsbD_frameOf m, fieldM_eq_extractLsb'_frameOf m, fieldC_eq_extractLsb'_frameOf m⟩

/-! ## Who writes a byte (R29, R50, R54) -/

/-- The rules that write the buffer: reset and READ clear it, and the last tick of BIT_SAMPLE writes one byte. -/
theorem Ran.buf_cases (h : Ran s u) :
    u.buf = s.buf ∨ (s.input.rst = true ∧ u.buf = []) ∨ (s.st = St.idle ∧ s.input.start = true ∧ u.buf = []) ∨
    (s.st = St.bitSample ∧ s.cnt + 1 = s.cfg.tBitSample ∧
      u.buf = s.buf.write s.byteIndex (sliceInto (s.buf.read s.byteIndex) s.lineIn)) := by
  cases h with
  | reset hr => exact .inr (.inl ⟨hr, rfl⟩)
  | read hr h hs => exact .inr (.inr (.inl ⟨h, hs, rfl⟩))
  | bitSample hr h hc => exact .inr (.inr (.inr ⟨h, by simpa +decide [cntBound, h] using hc, rfl⟩))
  | _ => exact .inl rfl

/-- A write changes only the byte it names, and only if there is such a byte. -/
theorem Memory.eq_of_read_write_ne {m : Memory} {a k : Nat} {v : Byte} (h : (m.write a v).read k ≠ m.read k) :
    k = a ∧ a < nBytes := by
  constructor
  · by_contra hne
    exact h (Memory.read_write_other m v hne)
  · by_contra ha
    exact h (by rw [Memory.write_outside m (Nat.le_of_not_lt ha)])

/-- Settles O42: the slice writes byte `bitn / 8`, which is `k` exactly for the bits `8k` to `8k + 7`. -/
theorem byteTakesOnlyItsEightBits : Obligations.ByteTakesOnlyItsEightBits := by
  intro s t k hstep hne
  obtain ⟨-, u, hran, rfl⟩ := step_ran hstep
  rw [State.advance_buf] at hne
  rcases hran.buf_cases with hsame | ⟨hrst, -⟩ | ⟨hst, hstart, -⟩ | ⟨hst, hcnt, hslice⟩
  · exact absurd (by rw [hsame]) hne
  · exact .inl hrst
  · exact .inr (.inl ⟨hst, hstart⟩)
  · rw [hslice] at hne
    obtain ⟨hk, hlt⟩ := Memory.eq_of_read_write_ne hne
    rw [← hk] at hlt
    rw [State.byteIndex] at hk
    exact .inr (.inr ⟨hst, hcnt, by omega, by omega, hlt⟩)

/-! ## The canonical form -/

/-- Canonical buffers with the same five bytes are the same list: past them both read zero. -/
theorem Memory.eq_of_bytes_eq {m n : Memory} (hm : m.wf) (hn : n.wf) (h : ∀ k < nBytes, m.read k = n.read k) : m = n := by
  refine Memory.eq_of_read_eq hm hn fun a => ?_
  rcases Nat.lt_or_ge a nBytes with ha | ha
  · exact h a ha
  · rw [Memory.read_outside hm ha, Memory.read_outside hn ha]

/-- Settles O44: every move keeps the canonical form, in which the bytes determine the list. -/
theorem bufferStaysCanonical : Obligations.BufferStaysCanonical := by
  refine ⟨fun s t hs hstep => ?_, fun _ _ => Memory.eq_of_bytes_eq⟩
  obtain ⟨-, u, hmove, rfl⟩ := step_move hstep
  exact hmove.keeps_bufferWf hs

end Sys2Proof.Machine

/-! SUPPORT. The decoder and the encoder (R74, R75, R78): each undoes the other, and the reserved
codes without a reset are all the words the decoder refuses and all a step faults on. -/

namespace Sys2Proof.Machine

variable {w : CommandWord} {s : State}

/-! ## Command words -/

theorem packWord_fields (w : CommandWord) : packWord (wordRst w) (wordStart w) (wordSt w) = w := by
  revert w
  decide

/-- A command word is determined by its three fields. -/
theorem packWord_eq_iff {r b : Bool} {c : StateCode} :
    packWord r b c = w ↔ wordRst w = r ∧ wordStart w = b ∧ wordSt w = c := by
  constructor
  · rintro rfl
    exact ⟨wordRst_packWord r b c, wordStart_packWord r b c, wordSt_packWord r b c⟩
  · rintro ⟨rfl, rfl, rfl⟩
    exact packWord_fields w

/-- The decoder reads back the fields a row's word was packed from, and they select that row. -/
theorem decodeWord_encode (i : Instr) : decodeWord (encode i) = .ok i := by
  cases i <;>
    simp +decide only [encode, decodeWord, wordRst_packWord, wordStart_packWord, wordSt_packWord, ↓reduceIte]

/-- Every word is in the table, except those with a reserved code and no reset (R75, R78). -/
theorem exists_encode_eq_or_reserved (w : CommandWord) :
    (∃ i, encode i = w) ∨ (wordRst w = false ∧ 0xA ≤ (wordSt w).toNat) := by
  cases hr : wordRst w with
  | true => exact .inl ⟨.reset (wordStart w) (wordSt w), packWord_eq_iff.2 ⟨hr, rfl, rfl⟩⟩
  | false =>
    rcases Nat.lt_or_ge 9 (wordSt w).toNat with hc | hc
    · exact .inr ⟨rfl, hc⟩
    · left
      have hmem := mem_stateCodes_of_le hc
      simp only [waitingStates, List.mem_cons, List.not_mem_nil, or_false] at hmem
      rcases hmem with hst | hst | hst | hst | hst | hst | hst | hst | hst | hst
      · cases hstart : wordStart w with
        | false => exact ⟨.idle, packWord_eq_iff.2 ⟨hr, hstart, hst⟩⟩
        | true => exact ⟨.read, packWord_eq_iff.2 ⟨hr, hstart, hst⟩⟩
      · exact ⟨.check (wordStart w), packWord_eq_iff.2 ⟨hr, rfl, hst⟩⟩
      · exact ⟨.startLow (wordStart w), packWord_eq_iff.2 ⟨hr, rfl, hst⟩⟩
      · exact ⟨.startHigh (wordStart w), packWord_eq_iff.2 ⟨hr, rfl, hst⟩⟩
      · exact ⟨.respSettle (wordStart w), packWord_eq_iff.2 ⟨hr, rfl, hst⟩⟩
      · exact ⟨.respLow (wordStart w), packWord_eq_iff.2 ⟨hr, rfl, hst⟩⟩
      · exact ⟨.respWaitLow (wordStart w), packWord_eq_iff.2 ⟨hr, rfl, hst⟩⟩
      · exact ⟨.bitWaitHigh (wordStart w), packWord_eq_iff.2 ⟨hr, rfl, hst⟩⟩
      · exact ⟨.bitSample (wordStart w), packWord_eq_iff.2 ⟨hr, rfl, hst⟩⟩
      · exact ⟨.bitWaitLow (wordStart w), packWord_eq_iff.2 ⟨hr, rfl, hst⟩⟩

theorem decodeWord_of_reserved (hr : wordRst w = false) (hc : 0xA ≤ (wordSt w).toNat) :
    decodeWord w = .error (.reservedState (wordSt w)) := by
  have hne : ∀ c : StateCode, c.toNat ≤ 9 → wordSt w ≠ c := by
    rintro c hle rfl
    omega
  simp [decodeWord, hr, hne]

/-- A word that decodes is not reserved, so it is the encoding of a row, and that row is the one it decodes to. -/
theorem encode_of_decodeWord {i : Instr} (h : decodeWord w = .ok i) : encode i = w := by
  rcases exists_encode_eq_or_reserved w with ⟨j, rfl⟩ | ⟨hr, hc⟩
  · rw [decodeWord_encode] at h
    cases h
    rfl
  · rw [decodeWord_of_reserved hr hc] at h
    cases h

/-- The encoding of a row is never refused, so the reserved codes without a reset are all the decoder refuses. -/
theorem decodeWord_eq_reserved_iff {c : StateCode} :
    decodeWord w = .error (.reservedState c) ↔ wordRst w = false ∧ wordSt w = c ∧ 0xA ≤ c.toNat := by
  constructor
  · intro h
    rcases exists_encode_eq_or_reserved w with ⟨j, rfl⟩ | ⟨hr, hc⟩
    · rw [decodeWord_encode] at h
      cases h
    · rw [decodeWord_of_reserved hr hc] at h
      cases h
      exact ⟨hr, rfl, hc⟩
  · rintro ⟨hr, rfl, hc⟩
    exact decodeWord_of_reserved hr hc

/-! ## Bytes -/

theorem highBits_eq_zero_iff (b : Byte) : b.extractLsb' 6 2 = 0#2 ↔ b.toNat < 64 := by
  rw [← BitVec.toNat_inj, BitVec.extractLsb'_toNat, Nat.shiftRight_eq_div_pow]
  have := b.isLt
  simp only [BitVec.toNat_ofNat]
  omega

/-- A byte with its two high bits clear decodes as its low six bits do. -/
theorem decodeByte_append_of_decodeWord {i : Instr} (h : decodeWord w = .ok i) : decodeByte (0#2 ++ w) = .ok i := by
  rw [decodeByte, if_pos BitVec.extractLsb'_append_eq_left, BitVec.extractLsb'_append_eq_right, h]

theorem decodeByte_eq_highBits_iff (b : Byte) : decodeByte b = .error (.highBits b) ↔ 64 ≤ b.toNat := by
  unfold decodeByte
  split_ifs with h <;> rw [highBits_eq_zero_iff] at h
  · cases decodeWord (b.extractLsb' 0 6) <;> simp [h]
  · simpa using h

/-- Settles O1: on the word by the fields of each row, on the byte because the encoder leaves its high bits clear. -/
theorem decodeOfEncodeIsTheRow : Obligations.DecodeOfEncodeIsTheRow := fun i _ =>
  ⟨decodeWord_encode i, decodeByte_append_of_decodeWord (decodeWord_encode i)⟩

/-- Settles O2: the converse of O1 on words, and the two refusals by name. -/
theorem everyWordIsOneRowOrReserved : Obligations.EveryWordIsOneRowOrReserved :=
  ⟨fun _ _ => encode_of_decodeWord, fun _ _ => decodeWord_eq_reserved_iff, fun b => (decodeByte_eq_highBits_iff b).symm⟩

/-- Settles O3: the first eight words are the encodings of their rows, bit for bit, and the ninth has a reserved code. -/
theorem tableWordsDecodeToTheirRows : Obligations.TableWordsDecodeToTheirRows :=
  ⟨decodeWord_encode .idle, decodeWord_encode (.startLow false), decodeWord_encode (.respWaitLow false),
    decodeWord_encode (.bitSample false), decodeWord_encode (.check false), decodeWord_encode .read,
    decodeWord_encode (.reset false 0b0000#4), decodeWord_encode (.reset true 0b1100#4),
    decodeWord_eq_reserved_iff.2 (by decide)⟩

/-! ## Status codes -/

/-- Settles O4: the failures by the inverse of `errorCode`, and the two codes of three bits above 5. -/
theorem statusCodesDecode : Obligations.StatusCodesDecode := by
  refine ⟨rfl, rfl, fun k => (decodeStatus_eq_failed_iff _ k).2 rfl, rfl, rfl, rfl, rfl, fun c => ?_⟩
  rw [decodeStatus_eq_none_iff]
  bv_omega

/-! ## Steps -/

theorem step_of_rst (hc : s.cfg.legal = true) (hr : s.input.rst = true) :
    step s = .next (launchState s.cfg (s.tick + 1) s.pending.tail) :=
  step_of_ran hc (.reset hr)

/-- The word of a tick is refused on the values of `rst` and `st` alone. -/
theorem step_reservedState_iff (hc : s.cfg.legal = true) :
    step s = .fault .reservedState ↔ s.input.rst = false ∧ 0xA ≤ s.st.toNat := by
  simp [step_fault_iff, decodeWord_eq_reserved_iff, hc]

/-- Settles O8: the fault is the decoder's refusal of the tick's word, and a reset is decoded before the state code. -/
theorem reservedStateFaultsUnlessReset : Obligations.ReservedStateFaultsUnlessReset :=
  ⟨fun _ => step_reservedState_iff, fun _ hc _ => step_of_rst hc⟩

end Sys2Proof.Machine

/-! SUPPORT. What a tick reads of its inputs (R91, R97), the rule it runs (R90, R96), and when the polls and CHECK are entered
(R94, R140). -/

namespace Sys2Proof.Machine

variable {s t u : State}

/-! ## The decoded row -/

/-- Settles O7: every row answers, and a step is the answer of its row with the tick passed. -/
theorem stepRunsTheDecodedRow : Obligations.StepRunsTheDecodedRow := by
  intro s i hc _ hi
  obtain ⟨t, ht⟩ := exec_answers i s
  exact ⟨t, ht, step_of_exec hc hi ht⟩

/-- Settles O10: the two rules of R96 as they are written, and the order of R90 for the words of IDLE. -/
theorem readClearsAndStartsAndIdleKeeps : Obligations.ReadClearsAndStartsAndIdleKeeps := by
  refine ⟨fun s => rfl, fun s => ?_, fun s hs => ?_⟩
  · exact ⟨s.clearSession.clearReport.clearMeasurement.enter St.startLow, rfl, fun _ _ => rfl,
      rfl, rfl, rfl, rfl, rfl, rfl, rfl, rfl, rfl, rfl, rfl, rfl, rfl, rfl⟩
  · refine ⟨?_, ?_, ?_, ?_, ?_⟩
    · rw [hs]; exact decodeWord_encode .read
    · rw [hs]; exact decodeWord_encode .idle
    · exact decodeWord_encode (.reset true s.st)
    · simp +decide [State.outputs, lineOe, hs]
    · simp +decide [State.outputs, linePu, lineOe, hs]

/-! ## How the polls and CHECK are entered -/

/-- Settles O47: the rules that enter these states sample the line as R94 and R140 say; the rules not named here enter none of
them. -/
theorem pollsAndCheckAreEnteredAsR94AndR140Say : Obligations.PollsAndCheckAreEnteredAsR94AndR140Say := by
  intro s t hstep
  obtain ⟨-, u, hran, rfl⟩ := step_ran hstep
  cases hran with
  | timedStay hr h hc => rcases h with h | h | h | h | h <;> simp +decide [h]
  | pollStay hr h hc => rcases h with ⟨h, -⟩ | ⟨h, -⟩ | ⟨h, -⟩ <;> simp +decide [h]
  | idle hr h hs => simp +decide [h]
  | respLow hr h hc hl => simp +decide [h, hl]
  | respWaitLow hr h hl => simp +decide [h, hl]
  | bitSample hr h hc => simp +decide [h]
  | nextBit hr h hl hb => simp +decide [h, hl]
  | lastBit hr h hl hb => simp +decide [h, hl, hb]
  | _ => simp +decide [*]

/-! ## What a tick reads of its inputs -/

/-- The state with the inputs of this tick and of the ticks after it. -/
def State.withInputs (s : State) (i : Inputs) (rest : List Inputs) : State := { s with pending := i :: rest }

/-- A step is determined by the next states and the faults it answers: it refuses on the configuration alone. -/
theorem step_congr (hcfg : t.cfg = s.cfg) (hnext : ∀ u, step s = .next u → step t = .next u)
    (hfault : ∀ r, step s = .fault r → step t = .fault r) : step t = step s := by
  cases hs : step s with
  | next u => exact hnext u hs
  | fault r => exact hfault r hs
  | refused r =>
    have hc : s.cfg.legal = false := by
      by_contra hc
      exact step_ne_refused (by simpa using hc) r hs
    rw [step_of_illegal (hcfg ▸ hc), ← hs, step_of_illegal hc]

/-- The ticks at which the rule of the current state reads the line: every tick of a poll, and the last tick of the three timed
states that sample (R91, R92). -/
def ReadsLine (s : State) : Prop :=
  (s.st = St.respWaitLow ∨ s.st = St.bitWaitHigh ∨ s.st = St.bitWaitLow) ∨
  ((s.st = St.respSettle ∨ s.st = St.respLow ∨ s.st = St.bitSample) ∧ s.cnt + 1 = cntBound s.cfg s.st)

/-- The rule of a tick reads `rst` always, `start` in IDLE only, and the line only where `ReadsLine` says: under other inputs that
agree on these the same rule runs. -/
theorem Ran.withInputs {i j : Inputs} {rest : List Inputs} (hran : Ran (s.withInputs i rest) u)
    (hrst : j.rst = i.rst) (hstart : i.rst = false → s.st = St.idle → j.start = i.start)
    (hline : ReadsLine s → j.lineIn = i.lineIn) : ∃ v, Ran (s.withInputs j rest) v ∧ v.advance = u.advance := by
  replace hrst : (s.withInputs j rest).input.rst = (s.withInputs i rest).input.rst := hrst
  replace hline : ReadsLine s → (s.withInputs j rest).lineIn = (s.withInputs i rest).lineIn := hline
  cases hran with
  | reset hr => exact ⟨_, .reset (hrst.trans hr), rfl⟩
  | idle hr h hs => exact ⟨_, .idle (hrst.trans hr) h ((hstart hr h).trans hs), rfl⟩
  | read hr h hs => exact ⟨_, .read (hrst.trans hr) h ((hstart hr h).trans hs), rfl⟩
  | timedStay hr h hc => exact ⟨_, .timedStay (hrst.trans hr) h hc, rfl⟩
  | pollStay hr h hc =>
    have hl := hline (.inl (h.imp And.left (Or.imp And.left And.left)))
    exact ⟨_, .pollStay (hrst.trans hr) (by rw [hl]; exact h) hc, rfl⟩
  | timeout hr h hc =>
    have hl := hline (.inl (h.imp And.left (Or.imp And.left And.left)))
    exact ⟨_, .timeout (hrst.trans hr) (by rw [hl]; exact h) hc, rfl⟩
  | startLow hr h hc => exact ⟨_, .startLow (hrst.trans hr) h hc, rfl⟩
  | startHigh hr h hc => exact ⟨_, .startHigh (hrst.trans hr) h hc, rfl⟩
  | noResponse hr h hc hl => exact ⟨_, .noResponse (hrst.trans hr) h hc ((hline (.inr ⟨.inl h, hc⟩)).trans hl), rfl⟩
  | respSettle hr h hc hl => exact ⟨_, .respSettle (hrst.trans hr) h hc ((hline (.inr ⟨.inl h, hc⟩)).trans hl), rfl⟩
  | invalidHandshake hr h hc hl =>
    exact ⟨_, .invalidHandshake (hrst.trans hr) h hc ((hline (.inr ⟨.inr (.inl h), hc⟩)).trans hl), rfl⟩
  | respLow hr h hc hl => exact ⟨_, .respLow (hrst.trans hr) h hc ((hline (.inr ⟨.inr (.inl h), hc⟩)).trans hl), rfl⟩
  | respWaitLow hr h hl => exact ⟨_, .respWaitLow (hrst.trans hr) h ((hline (.inl (.inl h))).trans hl), rfl⟩
  | bitWaitHigh hr h hl => exact ⟨_, .bitWaitHigh (hrst.trans hr) h ((hline (.inl (.inr (.inl h)))).trans hl), rfl⟩
  | bitSample hr h hc =>
    refine ⟨_, .bitSample (hrst.trans hr) h hc, ?_⟩
    rw [hline (.inr ⟨.inr (.inr h), hc⟩)]
    rfl
  | nextBit hr h hl hb => exact ⟨_, .nextBit (hrst.trans hr) h ((hline (.inl (.inr (.inr h)))).trans hl) hb, rfl⟩
  | lastBit hr h hl hb => exact ⟨_, .lastBit (hrst.trans hr) h ((hline (.inl (.inr (.inr h)))).trans hl) hb, rfl⟩
  | checkOk hr h hk => exact ⟨_, .checkOk (hrst.trans hr) h hk, rfl⟩
  | checkFail hr h hk => exact ⟨_, .checkFail (hrst.trans hr) h hk, rfl⟩

/-- The step under inputs that agree on what the tick reads. -/
theorem step_withInputs {i j : Inputs} (rest : List Inputs) (hrst : j.rst = i.rst)
    (hstart : i.rst = false → s.st = St.idle → j.start = i.start) (hline : ReadsLine s → j.lineIn = i.lineIn) :
    step (s.withInputs j rest) = step (s.withInputs i rest) := by
  refine step_congr rfl (fun t ht => ?_) fun r hr => ?_
  · obtain ⟨hc, u, hran, rfl⟩ := step_ran ht
    obtain ⟨v, hv, hsame⟩ := hran.withInputs hrst hstart hline
    rw [← hsame]
    exact step_of_ran (s := s.withInputs j rest) hc hv
  · obtain ⟨hc, rfl, hword⟩ := (step_fault_iff r).1 hr
    simp only [decodeWord_eq_reserved_iff, State.wordRst_commandWord, State.wordSt_commandWord] at hword
    obtain ⟨c, hi, hst, hres⟩ := hword
    exact (step_reservedState_iff (s := s.withInputs j rest) hc).2 ⟨hrst.trans hi, hst ▸ hres⟩

/-- Settles O48: a change of `start` alone is read in IDLE without a reset only. -/
theorem startIsIgnoredUnlessIdle : Obligations.StartIsIgnoredUnlessIdle := fun _ _ _ rest h =>
  step_withInputs rest rfl (fun hr hst => by simp [hr, hst] at h) fun _ => rfl

theorem not_readsLine_of_st (h : s.st = St.idle ∨ s.st = St.startLow ∨ s.st = St.startHigh ∨ s.st = St.check) :
    ¬ ReadsLine s := by
  rcases h with h | h | h | h <;> simp +decide [ReadsLine, h]

theorem not_readsLine_of_not_last (h : s.st = St.respSettle ∨ s.st = St.respLow ∨ s.st = St.bitSample)
    (hc : s.cnt + 1 ≠ cntBound s.cfg s.st) : ¬ ReadsLine s := by
  rintro (hpoll | ⟨-, hlast⟩)
  · rcases h with h | h | h <;> simp +decide [h] at hpoll
  · exact hc hlast

/-- Settles O49: a change of the line alone is read only where `ReadsLine` says, which is at none of these ticks. -/
theorem lineIsIgnoredUnlessSampled : Obligations.LineIsIgnoredUnlessSampled := by
  intro s i b rest h
  have hnot : ¬ ReadsLine s := by
    rcases h with h | h | h | h | ⟨h, hc⟩
    · exact not_readsLine_of_st (.inl h)
    · exact not_readsLine_of_st (.inr (.inl h))
    · exact not_readsLine_of_st (.inr (.inr (.inl h)))
    · exact not_readsLine_of_st (.inr (.inr (.inr h)))
    · exact not_readsLine_of_not_last h hc
  exact step_withInputs rest rfl (fun _ _ => rfl) fun hreads => absurd hreads hnot

end Sys2Proof.Machine

/-! SUPPORT. How long the timed and the poll states last, whatever the line does (R91, R92). -/

namespace Sys2Proof.Machine

variable {s t u : State}

/-! ## Timed states (R91) -/

/-- At its last tick a timed state without a reset leaves, for the next stage or for IDLE. -/
theorem exists_ran_of_timed_last
    (h : s.st = St.startLow ∨ s.st = St.startHigh ∨ s.st = St.respSettle ∨ s.st = St.respLow ∨ s.st = St.bitSample)
    (hr : s.input.rst = false) (hc : s.cnt + 1 = cntBound s.cfg s.st) : ∃ u, Ran s u ∧ u.st ≠ s.st ∧ u.cnt = 0 := by
  rcases h with h | h | h | h | h
  · exact ⟨_, .startLow hr h hc, by rw [h, State.enter_st]; decide, rfl⟩
  · exact ⟨_, .startHigh hr h hc, by rw [h, State.enter_st]; decide, rfl⟩
  · cases hl : s.lineIn with
    | true => exact ⟨_, .noResponse hr h hc hl, by rw [h, State.enter_st]; decide, rfl⟩
    | false => exact ⟨_, .respSettle hr h hc hl, by rw [h, State.enter_st]; decide, rfl⟩
  · cases hl : s.lineIn with
    | true => exact ⟨_, .respLow hr h hc hl, by rw [h, State.enter_st]; decide, rfl⟩
    | false => exact ⟨_, .invalidHandshake hr h hc hl, by rw [h, State.enter_st]; decide, rfl⟩
  · exact ⟨_, .bitSample hr h hc, by rw [h, State.enter_st]; decide, rfl⟩

/-- Waiting from `cnt = 0` for all ticks but the last of the state's bound, and then the rule of that tick. -/
theorem runFor_cntBound (hc : s.cfg.legal = true) (h0 : s.cnt = 0) (hr : NoReset s (cntBound s.cfg s.st))
    (hw : ∀ j < cntBound s.cfg s.st - 1, Waits s.st (s.lineAt j))
    (h : Ran (s.later s.st (cntBound s.cfg s.st - 1) (cntBound s.cfg s.st - 1)) u) :
    runFor (cntBound s.cfg s.st) s = .next u.advance := by
  have hpos := (cntBound_le hc s.st).1
  have hrun := runFor_wait_then (n := cntBound s.cfg s.st - 1) hc (fun j hj => hr j (by omega)) hw (by omega)
    (by rwa [h0, Nat.zero_add])
  rwa [Nat.sub_add_cancel hpos] at hrun

/-- Settles O51: below its duration a timed state only counts, and at the last tick its exit action runs. -/
theorem timedStateLastsItsDuration : Obligations.TimedStateLastsItsDuration := by
  intro s hc h0 hst hr
  have hpos := (cntBound_le hc s.st).1
  refine ⟨fun k hk => ?_, ?_⟩
  · have hrun := runFor_wait hc (n := k) (fun j hj => hr j (hj.trans hk)) (fun _ _ => .inl hst) (by omega)
    rwa [h0, Nat.zero_add] at hrun
  · obtain ⟨u, hran, hne, hcnt⟩ :=
      exists_ran_of_timed_last (s := s.later s.st (cntBound s.cfg s.st - 1) (cntBound s.cfg s.st - 1)) hst
        (by rw [State.input_eq, State.later_inputAt]; exact hr _ (by omega)) (Nat.sub_add_cancel hpos)
    exact ⟨u.advance, runFor_cntBound hc h0 hr (fun _ _ => .inl hst) hran, hne, hcnt⟩

/-! ## Poll states (R92) -/

/-- The poll state `c` waits for `level`. -/
def AwaitsLevel (c : StateCode) (level : Bool) : Prop :=
  (c = St.respWaitLow ∧ level = false) ∨ (c = St.bitWaitHigh ∧ level = true) ∨ (c = St.bitWaitLow ∧ level = false)

theorem AwaitsLevel.cntBound_eq {c : StateCode} {level : Bool} (h : AwaitsLevel c level) (cfg : Config) :
    cntBound cfg c = cfg.tEdgeTimeout := by
  rcases h with ⟨rfl, -⟩ | ⟨rfl, -⟩ | ⟨rfl, -⟩ <;> rfl

/-- The guard of the rules that stay in a poll state or time out. -/
theorem AwaitsLevel.of_line_ne {c : StateCode} {level line : Bool} (h : AwaitsLevel c level) (hl : line ≠ level) :
    (c = St.respWaitLow ∧ line = true) ∨ (c = St.bitWaitHigh ∧ line = false) ∨ (c = St.bitWaitLow ∧ line = true) := by
  rcases h with ⟨h, rfl⟩ | ⟨h, rfl⟩ | ⟨h, rfl⟩
  · exact .inl ⟨h, by simpa using hl⟩
  · exact .inr (.inl ⟨h, by simpa using hl⟩)
  · exact .inr (.inr ⟨h, by simpa using hl⟩)

/-- A poll state that sees its level goes on to the next stage and reports nothing. -/
theorem exists_ran_of_awaited (h : AwaitsLevel s.st s.lineIn) (hr : s.input.rst = false) :
    ∃ u, Ran s u ∧ u.st ∈ followers s.st ∧ u.st ≠ s.st ∧ u.st ≠ St.idle ∧ u.cnt = 0 ∧ SameReport s u := by
  have hrun : ∃ c v, Ran s (v.enter c) ∧ SameReport s v ∧ c ∈ followers s.st ∧ c ≠ s.st ∧ c ≠ St.idle := by
    rcases h with ⟨h, hl⟩ | ⟨h, hl⟩ | ⟨h, hl⟩
    · exact ⟨St.bitWaitHigh, s, .respWaitLow hr h hl, ⟨rfl, rfl, rfl⟩, by rw [h]; decide⟩
    · exact ⟨St.bitSample, s, .bitWaitHigh hr h hl, ⟨rfl, rfl, rfl⟩, by rw [h]; decide⟩
    · by_cases hb : s.bitn = 39#6
      · exact ⟨St.check, s, .lastBit hr h hl hb, ⟨rfl, rfl, rfl⟩, by rw [h]; decide⟩
      · exact ⟨St.bitWaitHigh, s.setBitn (s.bitn + 1), .nextBit hr h hl hb, ⟨rfl, rfl, rfl⟩, by rw [h]; decide⟩
  obtain ⟨c, v, hran, hreport, hnext, hne, hidle⟩ := hrun
  exact ⟨v.enter c, hran, hnext, hne, hidle, rfl, hreport⟩

/-- Settles O52: until the level shows or the bound is reached a poll state only counts; the tick after that exits or takes the
timeout. -/
theorem pollEndsAtItsLevelOrTimesOut : Obligations.PollEndsAtItsLevelOrTimesOut := by
  intro s level hc h0 hst hr
  have hbound : cntBound s.cfg s.st = s.cfg.tEdgeTimeout := AwaitsLevel.cntBound_eq hst s.cfg
  have hpos := (cntBound_le hc s.st).1
  have hwait {x : Nat} (hx : s.lineAt x ≠ level) : Waits s.st (s.lineAt x) := .inr (AwaitsLevel.of_line_ne hst hx)
  refine ⟨fun n hn hbefore hat => ?_, fun hnever => ?_⟩
  · have hlater : AwaitsLevel (s.later s.st (s.cnt + n) n).st (s.later s.st (s.cnt + n) n).lineIn := by
      rw [State.lineIn_eq, State.later_inputAt]
      exact (hat ▸ hst : AwaitsLevel s.st (s.lineAt n))
    obtain ⟨u, hran, hspec⟩ := exists_ran_of_awaited hlater (by rw [State.input_eq, State.later_inputAt]; exact hr n hn)
    exact ⟨u.advance, runFor_wait_then hc (fun j hj => hr j (hj.trans hn)) (fun x hx => hwait (hbefore x hx)) (by omega) hran,
      hspec⟩
  · rw [← hbound] at hr hnever ⊢
    refine ⟨_, runFor_cntBound hc h0 hr (fun x hx => hwait (hnever x (by omega))) (.timeout ?_ ?_ (Nat.sub_add_cancel hpos)),
      rfl, rfl, rfl, rfl, rfl, rfl, rfl⟩
    · rw [State.input_eq, State.later_inputAt]
      exact hr _ (by omega)
    · rw [State.lineIn_eq, State.later_inputAt]
      exact AwaitsLevel.of_line_ne hst (hnever _ (by omega))

end Sys2Proof.Machine

/-! SUPPORT. At which tick of an attempt a state can be current (R95): two bounds on the ticks since the READ was accepted, one
that a step raises by at most one and one that it raises by at least one while the attempt runs. -/

namespace Sys2Proof.Machine

variable {s t u : State}

/-! ## Runs, from their last step -/

theorem runFor_succ_last {n : Nat} (h : runFor (n + 1) s = .next t) : ∃ u, runFor n s = .next u ∧ step u = .next t := by
  obtain ⟨u, hu⟩ := runFor_earlier h
  refine ⟨u, hu, ?_⟩
  rw [runFor_add hu] at h
  cases hs : step u with
  | next v => rwa [runFor_one hs] at h
  | fault r => simp [runFor, hs] at h
  | refused r => simp [runFor, hs] at h

theorem runFor_snoc {n : Nat} (h : runFor n s = .next u) (hs : step u = .next t) : runFor (n + 1) s = .next t := by
  rw [runFor_add h, runFor_one hs]

/-- A property of the tick number and the state that every step carries to the next tick holds at the end of a run. -/
theorem runFor_invariant {P : Nat → State → Prop} {n : Nat} (h : runFor n s = .next t) (h0 : P 0 s)
    (hstep : ∀ k u v, P k u → step u = .next v → P (k + 1) v) : P n t := by
  induction n generalizing t with
  | zero => cases h; exact h0
  | succ n ih =>
    obtain ⟨u, hu, hs⟩ := runFor_succ_last h
    exact hstep n u t (ih hu) hs

/-! ## The ticks of the stages -/

/-- The tick of an attempt, counted from its acceptance, at which a state is entered for bit 0 when every poll takes `e` ticks. -/
def stageStart (c : Config) (e : Nat) (st : StateCode) : Nat :=
  if st = St.startLow then 1
  else if st = St.startHigh then c.tStartLow + 1
  else if st = St.respSettle then releaseTick c + 1
  else if st = St.respLow then presenceTick c + 1
  else if st = St.respWaitLow then ackTick c + 1
  else if st = St.bitWaitHigh then ackTick c + 1 + e
  else if st = St.bitSample then ackTick c + 1 + e + e
  else if st = St.bitWaitLow then ackTick c + 1 + e + e + c.tBitSample
  else if st = St.check then ackTick c + 1 + e + e + c.tBitSample + e
  else 0

/-- The ticks a bit takes when every poll takes `e` (R95). -/
def bitTicks (c : Config) (e : Nat) : Nat := e + c.tBitSample + e

/-- The tick at which the current state was entered, when every poll before it took `e` ticks. -/
def entryTick (e : Nat) (s : State) : Nat := stageStart s.cfg e s.st + s.bitn.toNat * bitTicks s.cfg e

/-- The poll states (R92). -/
def pollStates : List StateCode := [St.respWaitLow, St.bitWaitHigh, St.bitWaitLow]

/-- The ticks for which a state is current when every poll takes `e`. -/
def stageTicks (c : Config) (e : Nat) (st : StateCode) : Nat := if st ∈ pollStates then e else cntBound c st

theorem stageStart_pass (cfg : Config) (e : Nat) {c d : StateCode} (h : (c, d) ∈ plainTransitions) :
    stageStart cfg e d = stageStart cfg e c + stageTicks cfg e c := by
  simp only [plainTransitions, List.mem_cons, Prod.mk.injEq, List.not_mem_nil, or_false] at h
  rcases h with ⟨rfl, rfl⟩ | ⟨rfl, rfl⟩ | ⟨rfl, rfl⟩ | ⟨rfl, rfl⟩ | ⟨rfl, rfl⟩ | ⟨rfl, rfl⟩ <;>
    simp +decide [stageStart, stageTicks, cntBound, releaseTick, presenceTick, ackTick] <;> omega

/-- One tick of a running attempt counts in its state, or it enters the next one as many ticks after the current one was entered
as that one lasts. -/
theorem Continues.entryTick_cases (h : Continues s u) (hb : s.bitn.toNat ≤ 39) (e : Nat) :
    (s.cnt + 1 ≠ cntBound s.cfg s.st ∧ u = s.setCnt (s.cnt + 1)) ∨
    (u.st ≠ s.st ∧ u.cnt = 0 ∧ entryTick e u = entryTick e s + stageTicks s.cfg e s.st) := by
  cases h with
  | wait h hc => exact .inl ⟨hc, rfl⟩
  | pass h =>
    obtain ⟨-, hne, -⟩ := plainTransitions_spec h
    have := stageStart_pass s.cfg e h
    refine .inr ⟨hne, rfl, ?_⟩
    simp only [entryTick, State.enter_st, State.enter_cfg, State.enter_bitn]
    omega
  | slice h =>
    refine .inr ⟨by rw [h, State.enter_st]; decide, rfl, ?_⟩
    simp +decide [entryTick, h, stageStart, stageTicks, cntBound]
    omega
  | nextBit h hb39 =>
    refine .inr ⟨by rw [h, State.enter_st]; decide, rfl, ?_⟩
    have hmul : (s.bitn + 1).toNat * bitTicks s.cfg e = s.bitn.toNat * bitTicks s.cfg e + bitTicks s.cfg e := by
      rw [bitn_succ_toNat hb, Nat.succ_mul]
    simp +decide only [entryTick, h, stageStart, stageTicks, ↓reduceIte, State.enter_st, State.enter_cfg, State.enter_bitn,
      State.setBitn_cfg, State.setBitn_bitn, hmul]
    rw [bitTicks]
    omega
  | lastBit h hb39 =>
    refine .inr ⟨by rw [h, State.enter_st]; decide, rfl, ?_⟩
    simp +decide [entryTick, h, stageStart, stageTicks]
    omega

/-! ## When a running attempt leaves its state -/

/-- The line has the level that fails its state: a sample of the handshake of the wrong level, or a poll state without its own. -/
def SampleFails (s : State) : Prop :=
  (s.st = St.respSettle ∧ s.lineIn = true) ∨ (s.st = St.respLow ∧ s.lineIn = false) ∨
  (s.st = St.respWaitLow ∧ s.lineIn = true) ∨ (s.st = St.bitWaitHigh ∧ s.lineIn = false) ∨
  (s.st = St.bitWaitLow ∧ s.lineIn = true)

/-- A running attempt leaves a state at its last tick, or in a poll state once the line has the awaited level; it ends by a reset,
in CHECK, or by a failing sample at a last tick. -/
theorem Ran.exit_cases (h : Ran s u) (hb : s.busy = true) :
    u.st = s.st ∨ (u.st ≠ St.idle ∧ (s.cnt + 1 = cntBound s.cfg s.st ∨ AwaitsLevel s.st s.lineIn)) ∨
    (u.st = St.idle ∧ (s.input.rst = true ∨ s.st = St.check ∨ (s.cnt + 1 = cntBound s.cfg s.st ∧ SampleFails s))) := by
  cases h with
  | reset hr => exact .inr (.inr ⟨rfl, .inl hr⟩)
  | idle hr h hs => exact .inl rfl
  | read hr h hs => exact absurd h (busy_iff.1 hb)
  | timedStay hr h hc => exact .inl rfl
  | pollStay hr h hc => exact .inl rfl
  | timeout hr h hc => exact .inr (.inr ⟨rfl, .inr (.inr ⟨hc, .inr (.inr h)⟩)⟩)
  | startLow hr h hc => exact .inr (.inl ⟨by simp +decide, .inl hc⟩)
  | startHigh hr h hc => exact .inr (.inl ⟨by simp +decide, .inl hc⟩)
  | noResponse hr h hc hl => exact .inr (.inr ⟨rfl, .inr (.inr ⟨hc, .inl ⟨h, hl⟩⟩)⟩)
  | respSettle hr h hc hl => exact .inr (.inl ⟨by simp +decide, .inl hc⟩)
  | invalidHandshake hr h hc hl => exact .inr (.inr ⟨rfl, .inr (.inr ⟨hc, .inr (.inl ⟨h, hl⟩)⟩)⟩)
  | respLow hr h hc hl => exact .inr (.inl ⟨by simp +decide, .inl hc⟩)
  | respWaitLow hr h hl => exact .inr (.inl ⟨by simp +decide, .inr (.inl ⟨h, hl⟩)⟩)
  | bitWaitHigh hr h hl => exact .inr (.inl ⟨by simp +decide, .inr (.inr (.inl ⟨h, hl⟩))⟩)
  | bitSample hr h hc => exact .inr (.inl ⟨by simp +decide, .inl hc⟩)
  | nextBit hr h hl hb => exact .inr (.inl ⟨by simp +decide, .inr (.inr (.inr ⟨h, hl⟩))⟩)
  | lastBit hr h hl hb => exact .inr (.inl ⟨by simp +decide, .inr (.inr (.inr ⟨h, hl⟩))⟩)
  | checkOk hr h hk => exact .inr (.inr ⟨rfl, .inr (.inl h)⟩)
  | checkFail hr h hk => exact .inr (.inr ⟨rfl, .inr (.inl h)⟩)

/-- Between two ticks of a running attempt the rule is one of those that continue it. -/
theorem Move.continues (h : Move s u) (hs : s.busy = true) (hu : u.busy = true) : Continues s u := by
  rw [busy_iff] at hs hu
  cases h with
  | running hr h => exact h
  | idle hr h => exact absurd h hs
  | read hr h hstart => exact absurd h hs
  | _ => exact absurd rfl hu

/-! ## The acceptance of a READ (R96) -/

/-- The state after the tick that accepts a READ. -/
def afterRead (s : State) : State := (s.clearSession.clearReport.clearMeasurement.enter St.startLow).advance

theorem step_of_acceptsRead (h : AcceptsRead s) : step s = .next (afterRead s) := by
  obtain ⟨hc, hst, hr, hstart⟩ := h
  exact step_of_ran hc (.read hr hst hstart)

theorem safeState_launchState (c : Config) (n : Nat) (p : List Inputs) (hc : c.legal = true) :
    SafeState (launchState c n p) :=
  ⟨hc, specInvariant_launchState c n p, cntInRange_of_cnt_zero hc rfl, outcomeIsPair_of_cleared rfl rfl,
    bufferProgress_of_idle rfl, failureRecord_of_none_or_ok (.inl rfl), Memory.wf_nil⟩

/-- READ writes every register, so what it leaves is what it leaves of a block just reset. -/
theorem safeState_afterRead (h : AcceptsRead s) : SafeState (afterRead s) := by
  obtain ⟨hc, -, hr, hstart⟩ := h
  have hread : Move (launchState s.cfg s.tick s.pending)
      (s.clearSession.clearReport.clearMeasurement.enter St.startLow) := .read hr rfl hstart
  exact hread.keeps_safeState (safeState_launchState s.cfg s.tick s.pending hc)

/-- From IDLE a step stays there or accepts a READ. -/
theorem step_of_idle (hst : s.st = St.idle) (h : step s = .next t) : t.st = St.idle ∨ (AcceptsRead s ∧ t = afterRead s) := by
  obtain ⟨hc, u, hmove, rfl⟩ := step_move h
  cases hmove with
  | idle hr h => exact .inl hst
  | read hr h hstart => exact .inr ⟨⟨hc, hst, hr, hstart⟩, rfl⟩
  | running hr h => exact absurd hst (busy_iff.1 h.busy_before)
  | _ => exact .inl rfl

/-! ## The lower bound -/

/-- The earliest tick of an attempt at which the state can be current: every poll took one tick. -/
def earliestTick (s : State) : Nat := entryTick 1 s + if s.st ∈ pollStates then 0 else s.cnt

theorem earliestTick_of_cnt_zero (h : s.cnt = 0) : earliestTick s = entryTick 1 s := by
  simp [earliestTick, h]

theorem mem_pollStates_of_awaitsLevel {c : StateCode} {l : Bool} (h : AwaitsLevel c l) : c ∈ pollStates := by
  rcases h with ⟨rfl, -⟩ | ⟨rfl, -⟩ | ⟨rfl, -⟩ <;> decide

/-- A tick of a running attempt brings the earliest tick no more than one further: a poll state may be left at once, but a timed
state only at its last tick. -/
theorem Continues.earliestTick_le (h : Continues s u) (hb : s.bitn.toNat ≤ 39)
    (hguard : u.st = s.st ∨ s.cnt + 1 = cntBound s.cfg s.st ∨ AwaitsLevel s.st s.lineIn) :
    earliestTick u ≤ earliestTick s + 1 := by
  rcases h.entryTick_cases hb 1 with ⟨-, rfl⟩ | ⟨hne, h0, hentry⟩
  · have hmod : (s.cnt + 1) % 2 ^ s.cfg.wCnt ≤ s.cnt + 1 := Nat.mod_le _ _
    change entryTick 1 s + (if s.st ∈ pollStates then 0 else (s.cnt + 1) % 2 ^ s.cfg.wCnt) ≤ _
    rw [earliestTick]
    split_ifs <;> omega
  · rw [earliestTick_of_cnt_zero h0, hentry, earliestTick, stageTicks]
    split_ifs with hpoll
    · omega
    · have hlast : s.cnt + 1 = cntBound s.cfg s.st :=
        (hguard.resolve_left hne).resolve_right fun ha => hpoll (mem_pollStates_of_awaitsLevel ha)
      omega

theorem step_earliestTick_le (hs : SafeState s) (hb : s.busy = true) (h : step s = .next t) (ht : t.busy = true) :
    earliestTick t ≤ earliestTick s + 1 := by
  obtain ⟨-, ⟨-, -, -, hbitn⟩, -⟩ := hs
  obtain ⟨-, u, hran, rfl⟩ := step_ran h
  have hu : u.st ≠ St.idle := busy_iff.1 ht
  refine (hran.move.continues hb ht).earliestTick_le hbitn ?_
  rcases hran.exit_cases hb with hstay | ⟨-, hexit⟩ | ⟨hidle, -⟩
  · exact .inl hstay
  · exact .inr hexit
  · exact absurd hidle hu

theorem nMin_eq (c : Config) : nMin c = stageStart c 1 St.check + 39 * bitTicks c 1 + 1 := by
  simp +decide [nMin, stageStart, bitTicks, ackTick, presenceTick, releaseTick]
  omega

theorem earliestTick_of_check (hs : SafeState s) (h : s.st = St.check) : nMin s.cfg ≤ earliestTick s + 1 := by
  obtain ⟨-, -, -, -, ⟨-, hbitn, -⟩, -⟩ := hs
  rw [nMin_eq, earliestTick, entryTick, hbitn h, h]
  simp

/-- Settles O59: from the last READ on, the ticks passed are no fewer than the earliest tick of the state. -/
theorem noCheckBeforeNMin : Obligations.NoCheckBeforeNMin := by
  intro s t n hst hrun hcheck
  have hinv : t.st = St.idle ∨ (SafeState t ∧ earliestTick t ≤ n) := by
    refine runFor_invariant (P := fun k u => u.st = St.idle ∨ (SafeState u ∧ earliestTick u ≤ k)) hrun (.inl hst) ?_
    intro k u v hu hstep
    by_cases hv : v.st = St.idle
    · exact .inl hv
    right
    by_cases hidle : u.st = St.idle
    · obtain ⟨hread, rfl⟩ := (step_of_idle hidle hstep).resolve_left hv
      refine ⟨safeState_afterRead hread, ?_⟩
      simp +decide [earliestTick, entryTick, stageStart, afterRead]
    · obtain ⟨hsafe, hle⟩ := hu.resolve_left hidle
      have := step_earliestTick_le hsafe (busy_iff.2 hidle) hstep (busy_iff.2 hv)
      exact ⟨stepKeepsEverySafetyInvariant u v hsafe hstep, by omega⟩
  rw [hcheck] at hinv
  obtain ⟨hsafe, hle⟩ := hinv.resolve_left (by decide)
  have hmin := earliestTick_of_check hsafe hcheck
  rw [(runFor_environment hrun).1] at hmin
  omega

end Sys2Proof.Machine

/-! SUPPORT. Every attempt ends (R95): the upper bound on the ticks of an attempt, the attempt that reaches it, and the bits its
buffer then holds (R136). -/

namespace Sys2Proof.Machine

variable {s t u : State}

/-! ## The upper bound -/

/-- The latest tick of an attempt at which the state can be current: every poll took all the ticks it may. -/
def latestTick (s : State) : Nat := entryTick s.cfg.tEdgeTimeout s + s.cnt

/-- With the longest polls each state lasts as long as it may. -/
theorem stageTicks_tEdgeTimeout (c : Config) (st : StateCode) : stageTicks c c.tEdgeTimeout st = cntBound c st := by
  rw [stageTicks]
  split_ifs with hpoll
  · simp only [pollStates, List.mem_cons, List.not_mem_nil, or_false] at hpoll
    rcases hpoll with rfl | rfl | rfl <;> rfl
  · rfl

/-- A tick of a running attempt brings the latest tick at least one further, and exactly one if it stays in its state or leaves it
at its last tick. -/
theorem Continues.latestTick_cases (h : Continues s u) (hc : s.cfg.legal = true) (hcnt : CntInRange s)
    (hb : s.bitn.toNat ≤ 39) :
    latestTick s + 1 ≤ latestTick u ∧
    (u.st = s.st ∨ s.cnt + 1 = cntBound s.cfg s.st → latestTick u = latestTick s + 1) := by
  rcases h.entryTick_cases hb s.cfg.tEdgeTimeout with ⟨hne, rfl⟩ | ⟨hne, h0, hentry⟩
  · have hstay : latestTick (s.setCnt (s.cnt + 1)) = latestTick s + 1 := by
      rw [setCnt_succ_of_inRange hc hcnt hne]
      rfl
    exact ⟨hstay.ge, fun _ => hstay⟩
  · have hlt : s.cnt < cntBound s.cfg s.st := hcnt
    have hleave : latestTick u + s.cnt = latestTick s + cntBound s.cfg s.st := by
      rw [latestTick, latestTick, h.cfg, h0, hentry, stageTicks_tEdgeTimeout]
      omega
    exact ⟨by omega, fun hlast => by have := hlast.resolve_left hne; omega⟩

theorem nMax_eq (c : Config) : nMax c = stageStart c c.tEdgeTimeout St.check + 39 * bitTicks c c.tEdgeTimeout + 1 := by
  simp +decide [nMax, stageStart, bitTicks, ackTick, presenceTick, releaseTick]
  omega

/-- Every stage before CHECK is over when CHECK starts. -/
theorem stageStart_add_stageTicks_le_check (cfg : Config) (e : Nat) {c : StateCode} (h : c ∈ waitingStates) :
    stageStart cfg e c + stageTicks cfg e c ≤ stageStart cfg e St.check := by
  simp only [waitingStates, List.mem_cons, List.not_mem_nil, or_false] at h
  rcases h with rfl | rfl | rfl | rfl | rfl | rfl | rfl | rfl <;>
    simp +decide [stageStart, stageTicks, cntBound, ackTick, presenceTick, releaseTick] <;> omega

theorem mem_waitingStates_or_check (hs : SafeState s) (hb : s.busy = true) : s.st = St.check ∨ s.st ∈ waitingStates := by
  obtain ⟨-, ⟨-, -, hst, -⟩, -⟩ := hs
  exact List.mem_cons.1 ((List.mem_cons.1 (mem_stateCodes_of_le hst)).resolve_left (busy_iff.1 hb))

/-- Before CHECK an attempt can take at least two more ticks. -/
theorem latestTick_of_waiting (hs : SafeState s) (h : s.st ∈ waitingStates) : latestTick s + 1 < nMax s.cfg := by
  obtain ⟨-, ⟨-, -, -, hbitn⟩, hcnt, -⟩ := hs
  have hstage := stageStart_add_stageTicks_le_check s.cfg s.cfg.tEdgeTimeout h
  have hbits := Nat.mul_le_mul_right (bitTicks s.cfg s.cfg.tEdgeTimeout) hbitn
  rw [stageTicks_tEdgeTimeout] at hstage
  rw [nMax_eq, latestTick, entryTick]
  omega

theorem latestTick_of_check (hs : SafeState s) (h : s.st = St.check) : latestTick s + 1 = nMax s.cfg := by
  obtain ⟨-, -, hcnt, -, ⟨-, hbitn, -⟩, -⟩ := hs
  have h0 : s.cnt = 0 := by simpa +decide [CntInRange, h, cntBound] using hcnt
  rw [nMax_eq, latestTick, entryTick, hbitn h, h, h0]
  rfl

theorem latestTick_lt_nMax (hs : SafeState s) (hb : s.busy = true) : latestTick s < nMax s.cfg := by
  rcases mem_waitingStates_or_check hs hb with h | h
  · have := latestTick_of_check hs h
    omega
  · have := latestTick_of_waiting hs h
    omega

theorem step_latestTick_le (hs : SafeState s) (hb : s.busy = true) (h : step s = .next t) (ht : t.busy = true) :
    latestTick s + 1 ≤ latestTick t := by
  obtain ⟨hc, ⟨-, -, -, hbitn⟩, hcnt, -⟩ := hs
  obtain ⟨-, u, hmove, rfl⟩ := step_move h
  exact ((hmove.continues hb ht).latestTick_cases hc hcnt hbitn).1

theorem afterRead_busy (s : State) : (afterRead s).busy = true := rfl

theorem latestTick_afterRead (s : State) : latestTick (afterRead s) = 1 := by
  simp +decide [latestTick, entryTick, stageStart, afterRead]

/-- A running attempt is in IDLE again before the ticks up to `N_MAX` are over: each of them brings the latest tick on. -/
theorem exists_runFor_idle {k : Nat} (hs : SafeState s) (hb : s.busy = true) (hk : nMax s.cfg ≤ latestTick s + k) :
    ∃ n t, n + latestTick s ≤ nMax s.cfg ∧ runFor n s = .next t ∧ t.st = St.idle := by
  induction k generalizing s with
  | zero => exact absurd (latestTick_lt_nMax hs hb) (by omega)
  | succ k ih =>
    obtain ⟨t, hstep, ht⟩ := safeStatesNeverStop s hs
    by_cases hidle : t.st = St.idle
    · have := latestTick_lt_nMax hs hb
      exact ⟨1, t, by omega, runFor_one hstep, hidle⟩
    · have hmore := step_latestTick_le hs hb hstep (busy_iff.2 hidle)
      have hcfg := step_cfg hstep
      obtain ⟨n, v, hn, hrun, hv⟩ := ih ht (busy_iff.2 hidle) (by rw [hcfg]; omega)
      rw [hcfg] at hn
      exact ⟨n + 1, v, by omega, by rwa [runFor_succ hstep], hv⟩

/-- While the first attempt runs, its state is safe and its latest tick is not past. -/
theorem le_latestTick_of_runFor {n : Nat} (ha : AcceptsRead s)
    (hbusy : ∀ j u, 1 ≤ j → j < n → runFor j s = .next u → u.busy = true) {j : Nat} (h1 : 1 ≤ j) (hj : j < n)
    (hu : runFor j s = .next u) : SafeState u ∧ j ≤ latestTick u := by
  induction j, h1 using Nat.le_induction generalizing u with
  | base =>
    rw [runFor_one (step_of_acceptsRead ha)] at hu
    cases hu
    exact ⟨safeState_afterRead ha, (latestTick_afterRead s).ge⟩
  | succ j h1 ih =>
    obtain ⟨v, hv, hstep⟩ := runFor_succ_last hu
    obtain ⟨hsafe, hle⟩ := ih (by omega) hv
    have hmore := step_latestTick_le hsafe (hbusy j v h1 (by omega) hv) hstep (hbusy (j + 1) u (by omega) hj hu)
    exact ⟨stepKeepsEverySafetyInvariant v u hsafe hstep, by omega⟩

theorem plainTransitions_ne_idle {c d : StateCode} (h : (c, d) ∈ plainTransitions) : d ≠ St.idle := by
  simp only [plainTransitions, List.mem_cons, Prod.mk.injEq, List.not_mem_nil, or_false] at h
  rcases h with ⟨-, rfl⟩ | ⟨-, rfl⟩ | ⟨-, rfl⟩ | ⟨-, rfl⟩ | ⟨-, rfl⟩ | ⟨-, rfl⟩ <;> decide

theorem Continues.busy_after (h : Continues s u) : u.busy = true := by
  have hs := busy_iff.1 h.busy_before
  cases h with
  | wait h hc => exact busy_iff.2 hs
  | pass h => exact busy_iff.2 (plainTransitions_ne_idle h)
  | _ => rfl

/-- CHECK alone raises a checksum mismatch, and nothing else (R160). -/
theorem failingStates_waiting {k : ErrorKind} (hk : k ≠ .checksumMismatch) : ∀ c ∈ failingStates k, c ∈ waitingStates := by
  cases k with
  | checksumMismatch => exact absurd rfl hk
  | _ => decide

/-- What the tick that ends an attempt reports: nothing on a reset, and of the kinds only CHECK reports OK and a mismatch. -/
theorem Move.return_cases (h : Move s u) (hb : s.busy = true) (hu : u.st = St.idle) : u.status = Stat.none ∨
    (s.st = St.check ∧ (u.status = Stat.ok ∨ u.status = Stat.checksumMismatch)) ∨
    (s.st ∈ waitingStates ∧ (u.status = Stat.noResponse ∨ u.status = Stat.invalidHandshake ∨ u.status = Stat.timeout)) := by
  cases h with
  | reset hr => exact .inl rfl
  | idle hr h => exact absurd h (busy_iff.1 hb)
  | read hr h hstart => exact absurd h (busy_iff.1 hb)
  | running hr h => exact absurd hu (busy_iff.1 h.busy_after)
  | success hr h hk => exact .inr (.inl ⟨h, .inl rfl⟩)
  | failure k hr h hk =>
    cases k with
    | noResponse => exact .inr (.inr ⟨failingStates_waiting (k := .noResponse) nofun _ h, .inl rfl⟩)
    | invalidHandshake => exact .inr (.inr ⟨failingStates_waiting (k := .invalidHandshake) nofun _ h, .inr (.inl rfl)⟩)
    | checksumMismatch => exact .inr (.inl ⟨List.mem_singleton.1 h, .inr rfl⟩)
    | timeout => exact .inr (.inr ⟨failingStates_waiting (k := .timeout) nofun _ h, .inr (.inr rfl)⟩)

/-- The first return to IDLE: its tick, and how that depends on what the attempt reports. -/
theorem first_return_bounds {n : Nat} (ha : AcceptsRead s) (h1 : 1 ≤ n) (hrun : runFor n s = .next t) (ht : t.st = St.idle)
    (hbusy : ∀ j u, 1 ≤ j → j < n → runFor j s = .next u → u.busy = true) :
    n ≤ nMax s.cfg ∧ (t.status = Stat.ok ∨ t.status = Stat.checksumMismatch → nMin s.cfg ≤ n) ∧
    (t.status = Stat.noResponse ∨ t.status = Stat.invalidHandshake ∨ t.status = Stat.timeout → n < nMax s.cfg) := by
  obtain ⟨m, rfl⟩ := Nat.exists_eq_succ_of_ne_zero (Nat.ne_of_gt h1)
  obtain ⟨u, hu, hstep⟩ := runFor_succ_last hrun
  have hm : 1 ≤ m := by
    by_contra hm
    obtain rfl : m = 0 := by omega
    cases hu
    rw [step_of_acceptsRead ha] at hstep
    cases hstep
    exact absurd ht (busy_iff.1 (afterRead_busy s))
  obtain ⟨hsafe, hle⟩ := le_latestTick_of_runFor ha hbusy hm (Nat.lt_succ_self m) hu
  have hb := hbusy m u hm (Nat.lt_succ_self m) hu
  have hcfg : u.cfg = s.cfg := (runFor_environment hu).1
  have hmax := latestTick_lt_nMax hsafe hb
  rw [hcfg] at hmax
  obtain ⟨-, v, hmove, rfl⟩ := step_move hstep
  refine ⟨by omega, fun hok => ?_, fun hfail => ?_⟩
  · have hcheck : u.st = St.check := by
      rcases hmove.return_cases hb ht with hn | ⟨hcheck, -⟩ | ⟨-, hfail⟩
      · simp +decide [hn] at hok
      · exact hcheck
      · rcases hfail with hfail | hfail | hfail <;> simp +decide [hfail] at hok
    exact noCheckBeforeNMin s u m ha.2.1 hu hcheck
  · have hwaits : u.st ∈ waitingStates := by
      rcases hmove.return_cases hb ht with hn | ⟨-, hok⟩ | ⟨hwaits, -⟩
      · simp +decide [hn] at hfail
      · rcases hok with hok | hok <;> simp +decide [hok] at hfail
      · exact hwaits
    have := latestTick_of_waiting hsafe hwaits
    rw [hcfg] at this
    omega

/-! ## The bits in the buffer (R136) -/

/-- A tick of a running attempt slices one bit, or neither the buffer nor the count of sliced bits moves. -/
theorem Continues.acquired_cases (h : Continues s u) (hb : s.bitn.toNat ≤ 39) :
    (u.buf = s.buf ∧ acquired u = acquired s) ∨
    (s.st = St.bitSample ∧ u.st = St.bitWaitLow ∧ acquired s = s.bitn.toNat ∧ acquired u = s.bitn.toNat + 1 ∧
      u.buf = s.buf.write (s.bitn.toNat / 8) (sliceInto (s.buf.read (s.bitn.toNat / 8)) s.lineIn)) := by
  cases h with
  | wait h hc => exact .inl ⟨rfl, rfl⟩
  | pass h =>
    obtain ⟨-, hns, hns'⟩ := plainTransitions_progress h
    exact .inl ⟨rfl, (acquired_of_not_sliced hns').trans (acquired_of_not_sliced hns).symm⟩
  | slice h => exact .inr ⟨h, rfl, acquired_of_not_sliced (by rw [h]; decide), acquired_of_sliced (.inl rfl), rfl⟩
  | nextBit h hb39 =>
    refine .inl ⟨rfl, ?_⟩
    rw [acquired_of_sliced (.inl h), acquired_of_not_sliced (by simp +decide)]
    exact bitn_succ_toNat hb
  | lastBit h hb39 => exact .inl ⟨rfl, (acquired_of_sliced (.inr rfl)).trans (acquired_of_sliced (.inl h)).symm⟩

/-- The slice of bit `n` makes the bits before it the bits up to it (R133, R136). -/
theorem slice_firstBits (bits : Nat → Bool) {m : Memory} {n : Nat}
    (hlt : ∀ k < nBytes, (m.read k).toNat < 2 ^ min 8 (n - 8 * k))
    (hm : ∀ k < nBytes, (m.read k).toNat = firstBits bits k (min 8 (n - 8 * k))) :
    ∀ k < nBytes, ((m.write (n / 8) (sliceInto (m.read (n / 8)) (bits n))).read k).toNat =
      firstBits bits k (min 8 (n + 1 - 8 * k)) := by
  intro k hk
  by_cases hkn : k = n / 8
  · subst hkn
    have hc : min 8 (n - 8 * (n / 8)) = n % 8 := by omega
    have hc' : min 8 (n + 1 - 8 * (n / 8)) = n % 8 + 1 := by omega
    have hbound := hlt _ hk
    rw [hc] at hbound
    rw [Memory.read_write_same m hk, hc', (sliceInto_toNat _ _ (Nat.mod_lt n (by decide)) hbound).1, hm _ hk, hc, firstBits,
      Nat.div_add_mod]
  · have hc : min 8 (n + 1 - 8 * k) = min 8 (n - 8 * k) := by omega
    rw [Memory.read_write_other m _ hkn, hm k hk, hc]

/-- R136 step by step, for any bits the line gives. -/
theorem Continues.keeps_bufferHolds (h : Continues s u) (hs : SafeState s) {bits : Nat → Bool} (hbits : BufferHolds bits s)
    (hline : s.st = St.bitSample → u.st = St.bitWaitLow → s.lineIn = bits s.bitn.toNat) : BufferHolds bits u := by
  obtain ⟨-, ⟨-, -, -, hbitn⟩, -, -, ⟨-, -, hbytes⟩, -⟩ := hs
  have hlt := hbytes h.busy_before
  rcases h.acquired_cases hbitn with ⟨hbuf, hacq⟩ | ⟨hst, hst', hacq, hacq', hbuf⟩
  · simpa only [BufferHolds, acquiredIn, hbuf, hacq] using hbits
  · simp only [BufferHolds, acquiredIn, hacq] at hbits hlt
    rw [hline hst hst'] at hbuf
    simpa only [BufferHolds, acquiredIn, hbuf, hacq'] using slice_firstBits bits hlt hbits

theorem bufferHolds_afterRead (bits : Nat → Bool) (s : State) : BufferHolds bits (afterRead s) := by
  intro k _
  simp +decide [afterRead, acquiredIn, acquired, firstBits]

end Sys2Proof.Machine

/-! SUPPORT. The attempt that takes `N_MAX` ticks (R95, R141, assumption 14): on its line every poll sees its level at its last
tick, and every bit is a 1. -/

namespace Sys2Proof.Machine

variable {s t u v : State}

/-! ## Ticks that lose no time -/

/-- The attempt goes on, and a poll state does not see its level before its last tick. -/
def OnTime (s : State) : Prop :=
  s.input.rst = false ∧ (AwaitsLevel s.st s.lineIn → s.cnt + 1 = cntBound s.cfg s.st) ∧
  (s.cnt + 1 = cntBound s.cfg s.st → ¬ SampleFails s)

/-- Such a tick brings the attempt exactly one tick further. -/
theorem step_of_onTime (hs : SafeState s) (hw : s.st ∈ waitingStates) (hon : OnTime s) :
    ∃ u, step s = .next u.advance ∧ Continues s u ∧ latestTick u = latestTick s + 1 := by
  obtain ⟨hrst, hlevel, hsample⟩ := hon
  have hidle := waitingStates_ne_idle _ hw
  have hcheck : s.st ≠ St.check := fun h => absurd hw (by rw [h]; decide)
  obtain ⟨t, hstep, -⟩ := safeStatesNeverStop s hs
  obtain ⟨-, u, hran, rfl⟩ := step_ran hstep
  obtain ⟨hc, ⟨-, -, -, hbitn⟩, hcnt, -⟩ := hs
  have hexit : u.st ≠ St.idle ∧ (u.st = s.st ∨ s.cnt + 1 = cntBound s.cfg s.st) := by
    rcases hran.exit_cases (busy_iff.2 hidle) with hstay | ⟨hne, hlast | haw⟩ | ⟨-, hr | hst | ⟨hlast, hfail⟩⟩
    · exact ⟨hstay ▸ hidle, .inl hstay⟩
    · exact ⟨hne, .inr hlast⟩
    · exact ⟨hne, .inr (hlevel haw)⟩
    · simp [hrst] at hr
    · exact absurd hst hcheck
    · exact absurd hfail (hsample hlast)
  have hcont := hran.move.continues (busy_iff.2 hidle) (busy_iff.2 hexit.1)
  exact ⟨u, hstep, hcont, (hcont.latestTick_cases hc hcnt hbitn).2 hexit.2⟩

/-! ## The slowest line -/

/-- The line of the slowest attempt. From the tick at which BIT_WAIT_HIGH of bit `b` is entered, the line is high at the ticks
from the last of BIT_WAIT_HIGH on, but low at the last of BIT_WAIT_LOW. -/
def SlowestLine (s : State) : Prop :=
  HandshakeAt s (ackTick s.cfg + s.cfg.tEdgeTimeout) ∧
  ∀ b < nBits, ∀ x < bitTicks s.cfg s.cfg.tEdgeTimeout,
    (s.lineAt (ackTick s.cfg + s.cfg.tEdgeTimeout + 1 + b * bitTicks s.cfg s.cfg.tEdgeTimeout + x) = true ↔
      s.cfg.tEdgeTimeout ≤ x + 1 ∧ x + 1 < bitTicks s.cfg s.cfg.tEdgeTimeout)

/-- The widest clean pulse, rising at the last tick. -/
theorem lineAt_of_cleanBit {e r : Nat} (h : CleanBit s e r (s.cfg.tBitSample + s.cfg.tEdgeTimeout))
    (hr : r + 1 = e + s.cfg.tEdgeTimeout) {x : Nat} (hx : x < bitTicks s.cfg s.cfg.tEdgeTimeout) :
    s.lineAt (e + x) = true ↔ s.cfg.tEdgeTimeout ≤ x + 1 ∧ x + 1 < bitTicks s.cfg s.cfg.tEdgeTimeout := by
  obtain ⟨her, -, hw, -, hbefore, hhigh, hafter⟩ := h
  simp only [fallTick] at hafter
  rw [bitTicks] at hx ⊢
  by_cases hpulse : r ≤ e + x ∧ e + x < r + (s.cfg.tBitSample + s.cfg.tEdgeTimeout)
  · exact iff_of_true (hhigh _ hpulse.2 hpulse.1) (by omega)
  · have hlow : s.lineAt (e + x) = false := by
      rcases Nat.lt_or_ge (e + x) r with hlt | hge
      · exact hbefore _ hlt (by omega)
      · exact hafter _ (by omega) (by omega)
    exact iff_of_false (by simp [hlow]) (by omega)

/-- In the handshake `bitn` is 0, so the latest tick is the one the stage's timing gives. -/
theorem latestTick_of_handshake (hs : SafeState v) (hst : v.st.toNat ∈ [1, 2, 3, 4, 5]) :
    latestTick v = stageStart v.cfg v.cfg.tEdgeTimeout v.st + v.cnt := by
  obtain ⟨-, -, -, -, ⟨hbitn, -⟩, -⟩ := hs
  simp [latestTick, entryTick, hbitn hst]

/-- Bit `bitn` on the slowest line, `x` ticks after its BIT_WAIT_HIGH was entered. -/
theorem SlowestLine.level (hline : SlowestLine s) (hs : SafeState v) (hcfg : v.cfg = s.cfg)
    (hlevel : v.lineIn = s.lineAt (latestTick v)) (x : Nat)
    (hx : stageStart v.cfg v.cfg.tEdgeTimeout v.st + v.cnt = ackTick v.cfg + 1 + v.cfg.tEdgeTimeout + x)
    (hlt : x < bitTicks v.cfg v.cfg.tEdgeTimeout) :
    v.lineIn = true ↔ v.cfg.tEdgeTimeout ≤ x + 1 ∧ x + 1 < bitTicks v.cfg v.cfg.tEdgeTimeout := by
  obtain ⟨-, ⟨-, -, -, hbitn⟩, -⟩ := hs
  obtain ⟨-, hbits⟩ := hline
  have htick : latestTick v = ackTick v.cfg + v.cfg.tEdgeTimeout + 1 + v.bitn.toNat * bitTicks v.cfg v.cfg.tEdgeTimeout + x := by
    rw [latestTick, entryTick]
    omega
  rw [hlevel, htick, hcfg]
  rw [hcfg] at hlt
  exact hbits _ (Nat.lt_succ_of_le hbitn) x hlt

/-- The handshake on the slowest line: both samples pass, and the line falls at the last tick of RESP_WAIT_LOW. -/
theorem SlowestLine.onTime_handshake (hline : SlowestLine s) (hs : SafeState v) (hst : v.st.toNat ∈ [1, 2, 3, 4, 5])
    (hcfg : v.cfg = s.cfg) (hrst : v.input.rst = false) (hlevel : v.lineIn = s.lineAt (latestTick v)) : OnTime v := by
  obtain ⟨⟨hpresence, hack, -, -, hbefore, hfall⟩, -⟩ := hline
  have htick := latestTick_of_handshake hs hst
  obtain ⟨-, -, hcnt, -⟩ := hs
  have hcodes : v.st = St.startLow ∨ v.st = St.startHigh ∨ v.st = St.respSettle ∨ v.st = St.respLow ∨
      v.st = St.respWaitLow := by
    revert hst
    generalize v.st = c
    revert c
    decide
  rw [← hcfg] at hpresence hack hbefore hfall
  rcases hcodes with h | h | h | h | h <;>
    simp +decide [OnTime, AwaitsLevel, SampleFails, CntInRange, cntBound, stageStart, h, hrst] at htick hcnt ⊢
  · intro hlast
    rw [hlevel, show latestTick v = presenceTick v.cfg by rw [presenceTick]; omega, hpresence]
  · intro hlast
    rw [hlevel, show latestTick v = ackTick v.cfg by rw [ackTick]; omega, hack]
  · refine ⟨fun hlow => ?_, fun hlast => ?_⟩
    · by_contra hne
      rw [hlevel, hbefore (latestTick v) (by omega) (by omega)] at hlow
      simp at hlow
    · rw [hlevel, show latestTick v = ackTick v.cfg + v.cfg.tEdgeTimeout by omega, hfall]

/-- The payload on the slowest line: each bit rises at the last tick of BIT_WAIT_HIGH and falls at the last of BIT_WAIT_LOW. -/
theorem SlowestLine.onTime_payload (hline : SlowestLine s) (hs : SafeState v)
    (hst : v.st = St.bitWaitHigh ∨ v.st = St.bitSample ∨ v.st = St.bitWaitLow)
    (hcfg : v.cfg = s.cfg) (hrst : v.input.rst = false) (hlevel : v.lineIn = s.lineAt (latestTick v)) :
    OnTime v ∧ (v.st = St.bitSample → v.lineIn = true) := by
  have hlevelAt := hline.level hs hcfg hlevel
  obtain ⟨hc, -, hcnt, -⟩ := hs
  obtain ⟨-, -, -, -, ⟨hsample, -⟩, ⟨hpoll, -⟩, -⟩ := legal_bounds hc
  rcases hst with h | h | h <;> simp +decide only [h, stageStart, if_false, if_true] at hlevelAt <;>
    simp +decide [OnTime, AwaitsLevel, SampleFails, CntInRange, cntBound, h, hrst] at hcnt ⊢
  · have hhigh := hlevelAt v.cnt rfl (by rw [bitTicks]; omega)
    rw [bitTicks] at hhigh
    exact ⟨fun hl => by have := hhigh.1 hl; omega, fun hlast => hhigh.2 (by omega)⟩
  · exact (hlevelAt (v.cfg.tEdgeTimeout + v.cnt) (by omega) (by rw [bitTicks]; omega)).2 (by rw [bitTicks]; omega)
  · have hhigh := hlevelAt (v.cfg.tEdgeTimeout + v.cfg.tBitSample + v.cnt) (by omega) (by rw [bitTicks]; omega)
    rw [bitTicks] at hhigh
    refine ⟨fun hl => ?_, fun hlast => ?_⟩
    · by_contra hne
      have := hhigh.2 (by omega)
      simp [hl] at this
    · simpa using mt hhigh.1 (by omega)

/-- On the slowest line every tick before CHECK is on time, and each bit is sampled as a 1. -/
theorem SlowestLine.onTime (hline : SlowestLine s) (hs : SafeState v) (hw : v.st ∈ waitingStates) (hcfg : v.cfg = s.cfg)
    (hrst : v.input.rst = false) (hlevel : v.lineIn = s.lineAt (latestTick v)) :
    OnTime v ∧ (v.st = St.bitSample → v.lineIn = true) := by
  have hstage : ∀ c ∈ waitingStates, (c.toNat ∈ [1, 2, 3, 4, 5] ∧ c ≠ St.bitSample) ∨
      (c = St.bitWaitHigh ∨ c = St.bitSample ∨ c = St.bitWaitLow) := by decide
  rcases hstage _ hw with ⟨hst, hne⟩ | hst
  · exact ⟨hline.onTime_handshake hs hst hcfg hrst hlevel, fun h => absurd h hne⟩
  · exact hline.onTime_payload hs hst hcfg hrst hlevel

/-! ## The slowest attempt -/

/-- The slowest attempt runs up to tick `N_MAX - 1`, loses no tick, and slices a 1 for every bit. -/
theorem SlowestLine.runs (hline : SlowestLine s) (ha : AcceptsRead s) (hrst : NoReset s (nMax s.cfg)) {j : Nat}
    (h1 : 1 ≤ j) (hj : j < nMax s.cfg) :
    ∃ v, runFor j s = .next v ∧ SafeState v ∧ v.busy = true ∧ latestTick v = j ∧ BufferHolds (fun _ => true) v := by
  induction j, h1 using Nat.le_induction with
  | base =>
    exact ⟨afterRead s, runFor_one (step_of_acceptsRead ha), safeState_afterRead ha, afterRead_busy s, latestTick_afterRead s,
      bufferHolds_afterRead _ s⟩
  | succ j h1 ih =>
    obtain ⟨v, hrun, hsafe, hb, htick, hbits⟩ := ih (by omega)
    obtain ⟨hcfg, hinput⟩ := runFor_environment hrun
    have hw : v.st ∈ waitingStates := by
      refine (mem_waitingStates_or_check hsafe hb).resolve_left fun hcheck => ?_
      have := latestTick_of_check hsafe hcheck
      rw [hcfg] at this
      omega
    have hreset : v.input.rst = false := by
      rw [State.input_eq, hinput]
      exact hrst j (by omega)
    have hlevel : v.lineIn = s.lineAt (latestTick v) := by
      rw [State.lineIn_eq, hinput, htick]
      rfl
    obtain ⟨hon, hsample⟩ := hline.onTime hsafe hw hcfg hreset hlevel
    obtain ⟨u, hstep, hcont, hnext⟩ := step_of_onTime hsafe hw hon
    exact ⟨u.advance, runFor_snoc hrun hstep, stepKeepsEverySafetyInvariant v _ hsafe hstep, hcont.busy_after,
      hnext.trans (by rw [htick]), hcont.keeps_bufferHolds hsafe hbits fun h _ => hsample h⟩

theorem read_eq_of_all_ones (hs : SafeState v) (hcheck : v.st = St.check) (hbits : BufferHolds (fun _ => true) v) :
    ∀ k < nBytes, v.buf.read k = 0xFF#8 := by
  obtain ⟨-, -, -, -, ⟨-, hbitn, -⟩, -⟩ := hs
  intro k hk
  have hall : acquiredIn v k = 8 := by
    rw [acquiredIn, acquired_of_sliced (.inr hcheck), hbitn hcheck]
    change k < 5 at hk
    change min 8 (40 - 8 * k) = 8
    omega
  apply BitVec.eq_of_toNat_eq
  rw [hbits k hk, hall]
  rfl

/-- Five bytes of 0xFF fail their checksum: the data bytes add up to 0xFC. -/
theorem checksum_ne_of_all_ones {m : Memory} (h : ∀ k < nBytes, m.read k = 0xFF#8) : checksum m ≠ fieldC m := by
  rw [Ne, checksum_eq_iff, h 0 (by decide), h 1 (by decide), h 2 (by decide), h 3 (by decide), h 4 (by decide)]
  decide

/-- The slowest attempt ends at tick `N_MAX` in the mismatch that CHECK takes there. -/
theorem SlowestLine.ends_at_nMax (hline : SlowestLine s) (ha : AcceptsRead s) (hrst : NoReset s (nMax s.cfg)) :
    ∃ t, runFor (nMax s.cfg) s = .next t ∧ t.st = St.idle ∧ t.done = true ∧ t.status = Stat.checksumMismatch ∧
      t.errState = 0x9#4 ∧ ∀ k < nBytes, t.buf.read k = 0xFF#8 := by
  obtain ⟨m, hm⟩ : ∃ m, nMax s.cfg = m + 2 := ⟨nMax s.cfg - 2, by rw [nMax]; omega⟩
  rw [hm]
  obtain ⟨v, hrun, hsafe, hb, htick, hbits⟩ := hline.runs ha hrst (j := m + 1) (by omega) (by omega)
  obtain ⟨hcfg, hinput⟩ := runFor_environment hrun
  have hcheck : v.st = St.check := by
    refine (mem_waitingStates_or_check hsafe hb).resolve_right fun hw => ?_
    have := latestTick_of_waiting hsafe hw
    rw [hcfg] at this
    omega
  have hreset : v.input.rst = false := by
    rw [State.input_eq, hinput]
    exact hrst (m + 1) (by omega)
  have hones := read_eq_of_all_ones hsafe hcheck hbits
  obtain ⟨hc, -⟩ := hsafe
  exact ⟨_, runFor_snoc hrun (step_of_ran hc (.checkFail hreset hcheck (checksum_ne_of_all_ones hones))), rfl, rfl, rfl, hcheck,
    hones⟩

/-- Settles O58: the latest tick of the state is a measure of what is left of the attempt, which gives the first clause; it bounds
the tick of the first return, strictly before CHECK, which gives the second; and on the slowest line it is the tick itself. -/
theorem everyAttemptEndsWithinNMax : Obligations.EveryAttemptEndsWithinNMax := by
  refine ⟨fun s ha => ?_, fun s t n ha h1 hrun ht hbusy => first_return_bounds ha h1 hrun ht hbusy, ?_⟩
  · have hstart := latestTick_afterRead s
    obtain ⟨n, t, hn, hrun, ht⟩ :=
      exists_runFor_idle (k := nMax s.cfg) (safeState_afterRead ha) (afterRead_busy s) (Nat.le_add_left _ _)
    rw [hstart] at hn
    exact ⟨n + 1, t, by omega, hn, by rwa [runFor_succ (step_of_acceptsRead ha)], ht⟩
  · rintro s u period ha hhand rfl rfl hclean hrst
    obtain ⟨-, -, -, -, -, ⟨hpoll, -⟩, -⟩ := legal_bounds ha.1
    have hline : SlowestLine s := ⟨hhand, fun b hb _ hx => lineAt_of_cleanBit (hclean b hb) (by omega) hx⟩
    refine ⟨hline.ends_at_nMax ha hrst, fun j h1 hj => ?_⟩
    obtain ⟨v, hrun, -, hb, -⟩ := hline.runs ha hrst h1 hj
    exact ⟨v, hrun, hb⟩

end Sys2Proof.Machine

/-! SUPPORT. How the attempt starts (R110 to R112): the line is driven low, then high, and is then released until the
attempt is over. -/

namespace Sys2Proof.Machine

variable {s t : State}

/-! ## One tick of a timed state (R91) -/

/-- Within the range of the counter a timed state counts exactly, up to its exit action at `cnt = d - 1`. -/
theorem timed_eq_ite {d : Nat} (hd : d ≤ 2 ^ s.cfg.wCnt) (hk : s.cnt < d) (exit : State → Result) :
    timed d exit s = if s.cnt = d - 1 then exit s else .next { s with cnt := s.cnt + 1 } := by
  split_ifs with hlast
  · exact timed_last (by omega)
  · have hmore : s.cnt + 1 < d := by omega
    rw [timed_stay hmore.ne, stay_eq, setCnt_succ hd hmore]

/-- A timed state whose exit action only enters the next state. -/
theorem timed_enter_eq {d : Nat} (hd : d ≤ 2 ^ s.cfg.wCnt) (hk : s.cnt < d) (c : StateCode) :
    timed d (fun s => .next (s.enter c)) s =
      .next (if s.cnt = d - 1 then { s with st := c, cnt := 0 } else { s with cnt := s.cnt + 1 }) := by
  rw [timed_eq_ite hd hk, apply_ite Host.Outcome.next]
  rfl

/-! ## What drives the line (R34) -/

theorem line_of_startLow (h : s.st = St.startLow) :
    s.outputs.lineOe = true ∧ s.outputs.lineOut = false ∧ s.outputs.linePu = false := by
  obtain ⟨hlow, -, -⟩ := lineOutputsFollowTheState.1 s.st
  exact hlow h

theorem line_of_startHigh (h : s.st = St.startHigh) :
    s.outputs.lineOe = true ∧ s.outputs.lineOut = true ∧ s.outputs.linePu = false := by
  obtain ⟨-, hhigh, -⟩ := lineOutputsFollowTheState.1 s.st
  exact hhigh h

/-- The line is not driven: START_LOW and START_HIGH are not current. -/
def Released (s : State) : Prop := lineOe s.st = false

theorem Released.outputs (h : Released s) : s.outputs.lineOe = false ∧ s.outputs.linePu = true :=
  ⟨h, congrArg not h⟩

/-- In stage order only IDLE comes before START_LOW, and only START_LOW before START_HIGH (R26). -/
theorem lineOe_of_follows : ∀ c d : StateCode,
    c ≠ St.idle → lineOe c = false → d ∈ followers c → lineOe d = false := by decide

/-- A tick of a running attempt that has released the line keeps it released, whether the attempt goes on or ends. -/
theorem step_keeps_released (hrel : Released s) (hb : s.busy = true) (h : step s = .next t) : Released t := by
  obtain ⟨-, u, hmove, rfl⟩ := step_move h
  rcases hmove.st_follows with ⟨-, hidle⟩ | ⟨-, hnext⟩
  · rw [Released, State.advance_st, hidle]
    rfl
  · exact lineOe_of_follows _ _ (busy_iff.1 hb) hrel hnext

/-- From a tick `n` at which the line is released, it stays so for as long as the attempt runs. -/
theorem runFor_keeps_released {n k : Nat} {u : State} (hn : runFor n s = .next u) (hu : Released u) (hk : n ≤ k)
    (hbusy : ∀ j v, n ≤ j → j < k → runFor j s = .next v → v.busy = true) (h : runFor k s = .next t) : Released t := by
  induction k, hk using Nat.le_induction generalizing t with
  | base =>
    rw [hn] at h
    cases h
    exact hu
  | succ k hk ih =>
    obtain ⟨v, hv, hstep⟩ := runFor_succ_last h
    have hrel : Released v := ih (fun j w h1 h2 => hbusy j w h1 (by omega)) hv
    exact step_keeps_released hrel (hbusy k v hk (Nat.lt_succ_self k) hv) hstep

/-! ## The two driven stages, from the acceptance of the READ -/

/-- A state that is waited in for its whole bound and then only enters `d` is as it was, in `d`, when the bound is over. -/
theorem runFor_cntBound_enter {d : StateCode} (hc : s.cfg.legal = true) (h0 : s.cnt = 0)
    (hr : NoReset s (cntBound s.cfg s.st)) (hw : ∀ j < cntBound s.cfg s.st - 1, Waits s.st (s.lineAt j))
    (h : ∀ v : State, v.input.rst = false → v.st = s.st → v.cnt + 1 = cntBound v.cfg v.st → Ran v (v.enter d)) :
    runFor (cntBound s.cfg s.st) s = .next (s.later d 0 (cntBound s.cfg s.st)) := by
  have hpos := (cntBound_le hc s.st).1
  have hlast : (s.later s.st (cntBound s.cfg s.st - 1) (cntBound s.cfg s.st - 1)).input.rst = false := by
    rw [State.input_eq, State.later_inputAt]
    exact hr _ (by omega)
  rw [runFor_cntBound hc h0 hr hw (h _ hlast rfl (Nat.sub_add_cancel hpos)), State.enter_advance, Nat.sub_add_cancel hpos]

theorem noReset_afterRead {n : Nat} (hr : NoReset s (n + 1)) : NoReset (afterRead s) n := fun j hj => by
  simpa [afterRead] using hr (j + 1) (by omega)

/-- START_LOW from its first tick, the one after the acceptance (R110). -/
theorem runFor_startLow (ha : AcceptsRead s) (hr : NoReset s (s.cfg.tStartLow + 1)) {k : Nat} (hk : k < s.cfg.tStartLow) :
    runFor (k + 1) s = .next ((afterRead s).later St.startLow k k) := by
  rw [runFor_succ (step_of_acceptsRead ha)]
  obtain ⟨hrun, -⟩ := timedStateLastsItsDuration (afterRead s) ha.1 rfl (.inl rfl) (noReset_afterRead hr)
  exact hrun k hk

theorem runFor_enters_startHigh (ha : AcceptsRead s) (hr : NoReset s (s.cfg.tStartLow + 1)) :
    runFor (s.cfg.tStartLow + 1) s = .next ((afterRead s).later St.startHigh 0 s.cfg.tStartLow) := by
  rw [runFor_succ (step_of_acceptsRead ha)]
  exact runFor_cntBound_enter (s := afterRead s) ha.1 rfl (noReset_afterRead hr) (fun _ _ => .inl (.inl rfl)) fun _ => .startLow

theorem noReset_startHigh (hr : NoReset s (releaseTick s.cfg + 1)) :
    NoReset ((afterRead s).later St.startHigh 0 s.cfg.tStartLow) s.cfg.tReleaseHigh := fun j hj => by
  rw [State.later_inputAt]
  exact noReset_afterRead hr _ (Nat.add_lt_add_left hj _)

/-- START_HIGH from its first tick (R111). -/
theorem runFor_startHigh (ha : AcceptsRead s) (hr : NoReset s (releaseTick s.cfg + 1)) {k : Nat}
    (hk : k < s.cfg.tReleaseHigh) :
    runFor (s.cfg.tStartLow + 1 + k) s = .next ((afterRead s).later St.startHigh k (s.cfg.tStartLow + k)) := by
  rw [runFor_add (runFor_enters_startHigh ha fun j hj => hr j (by rw [releaseTick]; omega)), ← State.later_later]
  obtain ⟨hrun, -⟩ := timedStateLastsItsDuration ((afterRead s).later St.startHigh 0 s.cfg.tStartLow) ha.1 rfl
    (.inr (.inl rfl)) (noReset_startHigh hr)
  exact hrun k hk

theorem runFor_enters_respSettle (ha : AcceptsRead s) (hr : NoReset s (releaseTick s.cfg + 1)) :
    runFor (releaseTick s.cfg + 1) s = .next ((afterRead s).later St.respSettle 0 (releaseTick s.cfg)) := by
  rw [releaseTick, Nat.add_right_comm, runFor_add (runFor_enters_startHigh ha fun j hj => hr j (by rw [releaseTick]; omega)),
    ← State.later_later]
  exact runFor_cntBound_enter (s := (afterRead s).later St.startHigh 0 s.cfg.tStartLow) ha.1 rfl (noReset_startHigh hr)
    (fun _ _ => .inl (.inr (.inl rfl))) fun _ => .startHigh

/-! ## The obligations -/

/-- Settles O53: the two driven stages last their durations, and no state that a running attempt reaches after them drives the
line. -/
theorem lineIsDrivenThenReleased : Obligations.LineIsDrivenThenReleased := by
  intro s ha hr
  have hsettle := runFor_enters_respSettle ha hr
  refine ⟨fun k h1 hk => ?_, fun k hlow hk => ?_, ⟨_, hsettle, rfl⟩, fun k t hk hrun hbusy => ?_⟩
  · obtain ⟨j, rfl⟩ := Nat.exists_eq_add_of_le' h1
    exact ⟨_, runFor_startLow ha (fun i hi => hr i (by rw [releaseTick]; omega)) hk, line_of_startLow rfl⟩
  · obtain ⟨j, rfl⟩ := Nat.exists_eq_add_of_le (Nat.succ_le_of_lt hlow)
    exact ⟨_, runFor_startHigh ha hr (by rw [releaseTick] at hk; omega), line_of_startHigh rfl⟩
  · exact (runFor_keeps_released hsettle rfl hk hbusy hrun).outputs

/-- Settles O11: both states are timed and only enter the next one, and the ports are those of the state's code. -/
theorem lineReservationCountsThenMovesOn : Obligations.LineReservationCountsThenMovesOn := by
  refine ⟨fun _ s hc hst hk => ⟨?_, line_of_startLow hst⟩, fun _ s hc hst hk => ⟨?_, line_of_startHigh hst⟩⟩
  · obtain ⟨⟨-, hlow⟩, -⟩ := legal_bounds hc
    exact timed_enter_eq hlow hk St.startHigh
  · obtain ⟨-, ⟨-, hhigh⟩, -⟩ := legal_bounds hc
    exact timed_enter_eq hhigh hk St.respSettle

end Sys2Proof.Machine

/-! SUPPORT. The rules of the handshake (R120 to R122), and the handshake tick by tick from the acceptance of the READ (R124,
R164). -/

namespace Sys2Proof.Machine

variable {s t x y : State}

/-! ## One tick of the handshake (R120 to R122) -/

/-- The failure procedure in a known state. -/
theorem raiseFail_of_st {c : StateCode} (h : s.st = c) (k : ErrorKind) : raiseFail k s =
    .next { s with status := errorCode k, errState := c, done := true, st := 0x0#4, cnt := 0 } := by
  rw [raiseFail_eq, ← h]
  rfl

/-- Within the range of the counter a poll state counts exactly, up to the timeout at the last tick of its bound. -/
theorem poll_eq_ite (hd : s.cfg.tEdgeTimeout ≤ 2 ^ s.cfg.wCnt) (hk : s.cnt < s.cfg.tEdgeTimeout) (l : Bool)
    (exit : State → Result) : poll l exit s = if s.lineIn = l then exit s
      else if s.cnt = s.cfg.tEdgeTimeout - 1 then raiseFail .timeout s else .next { s with cnt := s.cnt + 1 } := by
  rw [← timed_eq_ite hd hk]
  rfl

/-- Settles O12: RESP_SETTLE is timed, and its exit action enters RESP_LOW or fails on the level of the line. -/
theorem respSettleSamplesPresence : Obligations.RespSettleSamplesPresence := by
  intro b s hc hst hk
  obtain ⟨-, -, ⟨-, hle⟩, -⟩ := legal_bounds hc
  have hrel : Released s := by rw [Released, hst]; rfl
  refine ⟨?_, hrel.outputs⟩
  change execRespSettle s = _
  rw [execRespSettle, timed_eq_ite hle hk, raiseFail_of_st hst, apply_ite Host.Outcome.next, apply_ite Host.Outcome.next]
  rfl

/-- Settles O13: RESP_LOW is timed, and its exit action enters RESP_WAIT_LOW or fails on the level of the line. -/
theorem respLowSamplesAcknowledgment : Obligations.RespLowSamplesAcknowledgment := by
  intro b s hc hst hk
  obtain ⟨-, -, -, ⟨-, hle⟩, -⟩ := legal_bounds hc
  have hrel : Released s := by rw [Released, hst]; rfl
  refine ⟨?_, hrel.outputs⟩
  change execRespLow s = _
  rw [execRespLow, timed_eq_ite hle hk, raiseFail_of_st hst, State.lineIn, apply_ite Host.Outcome.next,
    apply_ite Host.Outcome.next]
  cases s.input.lineIn <;> rfl

/-- Settles O14: RESP_WAIT_LOW is a poll for 0 whose exit action only enters BIT_WAIT_HIGH. -/
theorem respWaitLowPollsForTheFall : Obligations.RespWaitLowPollsForTheFall := by
  intro b s hc hst hk
  obtain ⟨-, -, -, -, -, ⟨-, hle⟩, -⟩ := legal_bounds hc
  have hrel : Released s := by rw [Released, hst]; rfl
  refine ⟨?_, hrel.outputs⟩
  change execRespWaitLow s = _
  rw [execRespWaitLow, poll_eq_ite hle hk, raiseFail_of_st hst, apply_ite Host.Outcome.next, apply_ite Host.Outcome.next]
  rfl

/-! ## Runs by their absolute ticks

A state at tick `n` of a run from `s` is written `x.later c k n`: in state `c` with `cnt = k`, the other registers those of `x`,
a state at tick 0. -/

theorem noReset_mono {m n : Nat} (hr : NoReset s n) (hle : m ≤ n) : NoReset s m := fun j hj => hr j (hj.trans_le hle)

theorem rst_of_runFor {n : Nat} (h : runFor n s = .next t) (hr : NoReset s (n + 1)) : t.input.rst = false := by
  rw [State.input_eq, (runFor_environment h).2]
  exact hr n (Nat.lt_succ_self n)

theorem lineIn_of_runFor {n : Nat} (h : runFor n s = .next t) : t.lineIn = s.lineAt n := by
  rw [State.lineIn_eq, (runFor_environment h).2]
  rfl

theorem legal_of_runFor {n : Nat} (hc : s.cfg.legal = true) (h : runFor n s = .next t) : t.cfg.legal = true := by
  rwa [(runFor_environment h).1]

/-- From tick `n`, at which state `c` was entered, the block waits in it up to tick `m`. -/
theorem runFor_wait_until {c : StateCode} {n m : Nat} (hc : s.cfg.legal = true) (hv : runFor n s = .next (x.later c 0 n))
    (hnm : n ≤ m) (hm : m < n + cntBound s.cfg c) (hr : NoReset s m)
    (hw : ∀ i < m, n ≤ i → Waits c (s.lineAt i)) : runFor m s = .next (x.later c (m - n) m) := by
  obtain ⟨d, rfl⟩ := Nat.exists_eq_add_of_le hnm
  obtain ⟨hcfg, hinput⟩ := runFor_environment hv
  have hline (j : Nat) : (x.later c 0 n).lineAt j = s.lineAt (n + j) := congrArg Inputs.lineIn (hinput j)
  have hwait : runFor d (x.later c 0 n) = .next ((x.later c 0 n).later c (0 + d) d) := by
    refine runFor_wait (s := x.later c 0 n) (legal_of_runFor hc hv) (fun j hj => ?_) (fun j hj => ?_) ?_
    · rw [hinput]
      exact hr _ (by omega)
    · rw [hline]
      exact hw _ (by omega) (by omega)
    · rw [hcfg, State.later_cnt, State.later_st]
      omega
  rw [runFor_add hv, hwait, State.later_later, Nat.zero_add, Nat.add_sub_cancel_left]

/-- The rule of tick `m` enters `d`, with the other registers those of `y`. -/
theorem runFor_enter {c d : StateCode} {k m : Nat} (hc : s.cfg.legal = true) (hv : runFor m s = .next (x.later c k m))
    (h : Ran (x.later c k m) ((y.later c k m).enter d)) : runFor (m + 1) s = .next (y.later d 0 (m + 1)) := by
  rw [← State.enter_advance c k]
  exact runFor_snoc hv (step_of_ran (legal_of_runFor hc hv) h)

/-! ## The stages of the handshake -/

/-- The block with the registers cleared that READ clears (R96). -/
def State.cleared (s : State) : State := s.clearSession.clearReport.clearMeasurement

theorem afterRead_eq_later (s : State) : afterRead s = s.cleared.later St.startLow 0 1 := by
  simp [afterRead, State.cleared, State.later, State.enter, State.advance]

theorem runFor_enters_respSettle_later (ha : AcceptsRead s) (hr : NoReset s (releaseTick s.cfg + 1)) :
    runFor (releaseTick s.cfg + 1) s = .next (s.cleared.later St.respSettle 0 (releaseTick s.cfg + 1)) := by
  rw [runFor_enters_respSettle ha hr, afterRead_eq_later, State.later_later, Nat.add_comm 1]

/-- RESP_SETTLE waits up to its last tick, the presence sample. -/
theorem runFor_presenceTick (ha : AcceptsRead s) (hr : NoReset s (presenceTick s.cfg)) : runFor (presenceTick s.cfg) s =
    .next (s.cleared.later St.respSettle (presenceTick s.cfg - (releaseTick s.cfg + 1)) (presenceTick s.cfg)) := by
  obtain ⟨-, -, ⟨hpos, -⟩, -⟩ := legal_bounds ha.1
  have hle : releaseTick s.cfg + 1 ≤ presenceTick s.cfg := Nat.add_le_add_left hpos _
  refine runFor_wait_until ha.1 (runFor_enters_respSettle_later ha (noReset_mono hr hle)) hle ?_ hr fun _ _ _ => ?_
  · change releaseTick s.cfg + s.cfg.tRespSettle < releaseTick s.cfg + 1 + s.cfg.tRespSettle
    omega
  · exact .inl (by simp)

theorem presenceTick_last (hc : s.cfg.legal = true) :
    presenceTick s.cfg - (releaseTick s.cfg + 1) + 1 = s.cfg.tRespSettle := by
  obtain ⟨-, -, ⟨hpos, -⟩, -⟩ := legal_bounds hc
  rw [presenceTick]
  omega

/-- After a low presence sample RESP_LOW waits up to its last tick, the acknowledgment sample. -/
theorem runFor_ackTick (ha : AcceptsRead s) (hr : NoReset s (ackTick s.cfg)) (hp : s.lineAt (presenceTick s.cfg) = false) :
    runFor (ackTick s.cfg) s =
      .next (s.cleared.later St.respLow (ackTick s.cfg - (presenceTick s.cfg + 1)) (ackTick s.cfg)) := by
  obtain ⟨-, -, -, ⟨hpos, -⟩, -⟩ := legal_bounds ha.1
  have hle : presenceTick s.cfg + 1 ≤ ackTick s.cfg := Nat.add_le_add_left hpos _
  have hsample := runFor_presenceTick ha (noReset_mono hr (Nat.le_of_succ_le hle))
  have henter := runFor_enter ha.1 hsample (.respSettle (rst_of_runFor hsample (noReset_mono hr hle)) rfl
    (presenceTick_last ha.1) ((lineIn_of_runFor hsample).trans hp))
  refine runFor_wait_until ha.1 henter hle ?_ hr fun _ _ _ => ?_
  · change presenceTick s.cfg + s.cfg.tRespLow < presenceTick s.cfg + 1 + s.cfg.tRespLow
    omega
  · exact .inl (by simp)

theorem ackTick_last (hc : s.cfg.legal = true) : ackTick s.cfg - (presenceTick s.cfg + 1) + 1 = s.cfg.tRespLow := by
  obtain ⟨-, -, -, ⟨hpos, -⟩, -⟩ := legal_bounds hc
  rw [ackTick]
  omega

/-- After a high acknowledgment sample RESP_WAIT_LOW waits for as long as the line stays high, within its bound. -/
theorem runFor_respWaitLow (ha : AcceptsRead s) {m : Nat} (hr : NoReset s m) (hp : s.lineAt (presenceTick s.cfg) = false)
    (hack : s.lineAt (ackTick s.cfg) = true) (hm : ackTick s.cfg < m) (hbound : m ≤ ackTick s.cfg + s.cfg.tEdgeTimeout)
    (hhigh : ∀ i < m, ackTick s.cfg < i → s.lineAt i = true) :
    runFor m s = .next (s.cleared.later St.respWaitLow (m - (ackTick s.cfg + 1)) m) := by
  have hsample := runFor_ackTick ha (noReset_mono hr hm.le) hp
  have henter := runFor_enter ha.1 hsample (.respLow (rst_of_runFor hsample (noReset_mono hr hm)) rfl (ackTick_last ha.1)
    ((lineIn_of_runFor hsample).trans hack))
  refine runFor_wait_until ha.1 henter hm ?_ hr fun i hi hle => .inr (.inl ⟨rfl, hhigh i hi hle⟩)
  change m < ackTick s.cfg + 1 + s.cfg.tEdgeTimeout
  omega

/-- A handshake that passes: payload acquisition starts with the registers READ cleared. -/
theorem runFor_enters_bitWaitHigh {u : Nat} (ha : AcceptsRead s) (hh : HandshakeAt s u) (hr : NoReset s (u + 1)) :
    runFor (u + 1) s = .next (s.cleared.later St.bitWaitHigh 0 (u + 1)) := by
  obtain ⟨hp, hack, hu, hbound, hhigh, hfall⟩ := hh
  have hwait := runFor_respWaitLow ha (noReset_mono hr (Nat.le_succ u)) hp hack hu hbound hhigh
  exact runFor_enter ha.1 hwait (.respWaitLow (rst_of_runFor hwait hr) rfl ((lineIn_of_runFor hwait).trans hfall))

/-- A failure in state `c` of the handshake shows at the next tick, over the registers READ cleared (R123, R163). -/
theorem runFor_handshake_failure {c : StateCode} {k m : Nat} {e : ErrorKind} (hc : s.cfg.legal = true)
    (hv : runFor m s = .next (s.cleared.later c k m))
    (h : Ran (s.cleared.later c k m) (((s.cleared.later c k m).reportFailure e).enter St.idle)) :
    ∃ t, runFor (m + 1) s = .next t ∧ t.st = St.idle ∧ t.done = true ∧ t.status = errorCode e ∧ t.errState = c ∧
      t.bitn = 0#6 ∧ BufferZero t ∧ MeasurementZero t :=
  ⟨_, runFor_snoc hv (step_of_ran (legal_of_runFor hc hv) h), rfl, rfl, rfl, rfl, rfl, fun _ _ => rfl, rfl, rfl, rfl⟩

/-! ## The whole handshake (R124, R164) -/

/-- Settles O54: the block waits through the handshake, and the fall at tick `u` takes it out of RESP_WAIT_LOW. -/
theorem handshakePassesThenPayloadStarts : Obligations.HandshakePassesThenPayloadStarts := fun _ _ ha hh hr =>
  ⟨_, runFor_enters_bitWaitHigh ha hh hr, rfl, rfl, rfl, fun _ _ => rfl, rfl, rfl, rfl, ⟨rfl, rfl, rfl⟩, rfl⟩

/-- Settles O55: the block waits through the stages that pass, and the last tick of the one that does not takes the failure. -/
theorem handshakeFailsAtItsTick : Obligations.HandshakeFailsAtItsTick := by
  intro s ha hr
  have hc := ha.1
  obtain ⟨-, -, -, -, -, ⟨hpos, -⟩, -⟩ := legal_bounds hc
  have hticks : presenceTick s.cfg ≤ ackTick s.cfg := Nat.le_add_right _ _
  refine ⟨fun hp => ?_, fun hp hack => ?_, fun hp hack hhigh => ?_⟩
  · have hwait := runFor_presenceTick ha (noReset_mono hr (by omega))
    exact runFor_handshake_failure hc hwait (.noResponse (rst_of_runFor hwait (noReset_mono hr (by omega))) rfl
      (presenceTick_last hc) ((lineIn_of_runFor hwait).trans hp))
  · have hwait := runFor_ackTick ha (noReset_mono hr (by omega)) hp
    exact runFor_handshake_failure hc hwait (.invalidHandshake (rst_of_runFor hwait (noReset_mono hr (by omega))) rfl
      (ackTick_last hc) ((lineIn_of_runFor hwait).trans hack))
  · have hwait := runFor_respWaitLow ha (noReset_mono hr (Nat.le_succ _)) hp hack (by omega) le_rfl
      fun i hi => hhigh i (Nat.lt_succ_of_lt hi)
    have hlast : ackTick s.cfg + s.cfg.tEdgeTimeout - (ackTick s.cfg + 1) + 1 = s.cfg.tEdgeTimeout := by omega
    exact runFor_handshake_failure hc hwait (.timeout (rst_of_runFor hwait hr)
      (.inl ⟨rfl, (lineIn_of_runFor hwait).trans (hhigh _ (Nat.lt_succ_self _) (by omega))⟩) hlast)

end Sys2Proof.Machine

/-! SUPPORT. A clean bit tick by tick (R134, R137), and a whole READ of forty clean pulses (R136, R141, R192). -/

namespace Sys2Proof.Machine

variable {s t v x : State}

/-! ## One clean bit -/

/-- The registers with the level `b` sliced into the byte of bit `bitn` (R133). -/
def State.withBit (s : State) (b : Bool) : State := s.putByte s.byteIndex (sliceInto (s.buf.read s.byteIndex) b)

@[simp] theorem State.withBit_buf (b : Bool) : (s.withBit b).buf =
    s.buf.write (s.bitn.toNat / 8) (sliceInto (s.buf.read (s.bitn.toNat / 8)) b) := rfl

/-- A rise at tick `p` within the bound of BIT_WAIT_HIGH: the level `T_BIT_SAMPLE` ticks later is sliced, and BIT_WAIT_LOW is
entered at the tick after that. -/
theorem runFor_slice {e p : Nat} (hc : s.cfg.legal = true) (hv : runFor e s = .next (x.later St.bitWaitHigh 0 e)) (hep : e ≤ p)
    (hbound : p < e + s.cfg.tEdgeTimeout) (hlow : ∀ i < p, e ≤ i → s.lineAt i = false) (hrise : s.lineAt p = true)
    (hr : NoReset s (p + s.cfg.tBitSample + 1)) : runFor (p + s.cfg.tBitSample + 1) s =
      .next ((x.withBit (s.lineAt (p + s.cfg.tBitSample))).later St.bitWaitLow 0 (p + s.cfg.tBitSample + 1)) := by
  obtain ⟨-, -, -, -, ⟨hpos, -⟩, -⟩ := legal_bounds hc
  have hcfg : x.cfg = s.cfg := (runFor_environment hv).1
  have hwait := runFor_wait_until hc hv hep hbound (noReset_mono hr (by omega)) fun i hi hle =>
    .inr (.inr (.inl ⟨rfl, hlow i hi hle⟩))
  have hsample := runFor_enter hc hwait (.bitWaitHigh (rst_of_runFor hwait (noReset_mono hr (by omega))) rfl
    ((lineIn_of_runFor hwait).trans hrise))
  have hlast := runFor_wait_until (m := p + s.cfg.tBitSample) hc hsample (Nat.add_le_add_left hpos p)
    (by change _ < p + 1 + s.cfg.tBitSample; omega) (noReset_mono hr (Nat.le_succ _)) fun _ _ _ => .inl (by simp)
  have hcnt : p + s.cfg.tBitSample - (p + 1) + 1 = x.cfg.tBitSample := by rw [hcfg]; omega
  rw [← lineIn_of_runFor hlast]
  exact runFor_enter hc hlast (.bitSample (rst_of_runFor hlast hr) rfl hcnt)

/-- The sample of a clean pulse reads 1 exactly when the pulse is wider than `T_BIT_SAMPLE` (R134). -/
theorem lineAt_sample_of_cleanBit {e p w : Nat} (h : CleanBit s e p w) :
    s.lineAt (p + s.cfg.tBitSample) = decide (s.cfg.tBitSample < w) := by
  obtain ⟨-, -, -, -, -, hhigh, hafter⟩ := h
  by_cases hw : s.cfg.tBitSample < w
  · rw [hhigh _ (by omega) (by omega), decide_eq_true hw]
  · rw [hafter _ (by rw [fallTick]; omega) (by omega), decide_eq_false hw]

/-- The bit of a clean pulse is sliced by its width, and BIT_WAIT_LOW waits up to the tick at which it sees the line low. -/
theorem runFor_fallTick {e p w : Nat} (hc : s.cfg.legal = true) (hv : runFor e s = .next (x.later St.bitWaitHigh 0 e))
    (hclean : CleanBit s e p w) (hr : NoReset s (fallTick s.cfg p w)) : ∃ k, runFor (fallTick s.cfg p w) s =
      .next ((x.withBit (decide (s.cfg.tBitSample < w))).later St.bitWaitLow k (fallTick s.cfg p w)) := by
  have ⟨hep, hbound, hpos, _, hlow, hhigh, _⟩ := hclean
  obtain ⟨-, -, -, -, -, ⟨hedge, -⟩, -⟩ := legal_bounds hc
  have hle : p + s.cfg.tBitSample + 1 ≤ fallTick s.cfg p w := by rw [fallTick]; omega
  have hslice := runFor_slice hc hv hep hbound hlow (hhigh p (by omega) le_rfl) (noReset_mono hr hle)
  rw [lineAt_sample_of_cleanBit hclean] at hslice
  refine ⟨_, runFor_wait_until hc hslice hle ?_ hr fun i hi _ => .inr (.inr (.inr ⟨rfl, hhigh i ?_ (by omega)⟩))⟩
  · change p + max w (s.cfg.tBitSample + 1) < p + s.cfg.tBitSample + 1 + s.cfg.tEdgeTimeout
    omega
  · rw [fallTick] at hi
    omega

theorem lineAt_fallTick_of_cleanBit {e p w : Nat} (h : CleanBit s e p w) : s.lineAt (fallTick s.cfg p w) = false := by
  obtain ⟨-, -, -, -, -, -, hafter⟩ := h
  exact hafter _ (Nat.lt_succ_self _) (Nat.add_le_add_left (Nat.le_max_left _ _) p)

/-- A clean bit before bit 39 is followed by the next one at the tick after the fall (R137). -/
theorem runFor_nextBit {e p w : Nat} (hc : s.cfg.legal = true) (hv : runFor e s = .next (x.later St.bitWaitHigh 0 e))
    (hclean : CleanBit s e p w) (hr : NoReset s (fallTick s.cfg p w + 1)) (hb : x.bitn ≠ 39#6) :
    runFor (fallTick s.cfg p w + 1) s = .next
      (((x.withBit (decide (s.cfg.tBitSample < w))).setBitn (x.bitn + 1)).later St.bitWaitHigh 0 (fallTick s.cfg p w + 1)) := by
  obtain ⟨k, hfall⟩ := runFor_fallTick hc hv hclean (noReset_mono hr (Nat.le_succ _))
  exact runFor_enter hc hfall (.nextBit (rst_of_runFor hfall hr) rfl
    ((lineIn_of_runFor hfall).trans (lineAt_fallTick_of_cleanBit hclean)) hb)

/-- A clean bit 39 is followed by CHECK at the tick after the fall (R137). -/
theorem runFor_lastBit {e p w : Nat} (hc : s.cfg.legal = true) (hv : runFor e s = .next (x.later St.bitWaitHigh 0 e))
    (hclean : CleanBit s e p w) (hr : NoReset s (fallTick s.cfg p w + 1)) (hb : x.bitn = 39#6) :
    runFor (fallTick s.cfg p w + 1) s =
      .next ((x.withBit (decide (s.cfg.tBitSample < w))).later St.check 0 (fallTick s.cfg p w + 1)) := by
  obtain ⟨k, hfall⟩ := runFor_fallTick hc hv hclean (noReset_mono hr (Nat.le_succ _))
  exact runFor_enter hc hfall (.lastBit (rst_of_runFor hfall hr) rfl
    ((lineIn_of_runFor hfall).trans (lineAt_fallTick_of_cleanBit hclean)) hb)

/-! ## Forty clean bits -/

/-- Every state of a run that accepts a READ first is safe. -/
theorem safeState_of_runFor {n : Nat} (ha : AcceptsRead s) (h1 : 1 ≤ n) (h : runFor n s = .next t) : SafeState t := by
  obtain ⟨m, rfl⟩ := Nat.exists_eq_add_of_le' h1
  rw [runFor_succ (step_of_acceptsRead ha)] at h
  exact runFor_invariant (P := fun _ => SafeState) h (safeState_afterRead ha) fun _ u v => stepKeepsEverySafetyInvariant u v

/-- The slice of bit `bitn` keeps the buffer equal to the bits sliced so far (R136). -/
theorem bufferHolds_of_slice {bits : Nat → Bool} (hs : SafeState v) (hst : v.st = St.bitWaitHigh) (hb : BufferHolds bits v)
    (hbuf : t.buf = (v.withBit (bits v.bitn.toNat)).buf) (hacq : acquired t = v.bitn.toNat + 1) : BufferHolds bits t := by
  obtain ⟨-, -, -, -, ⟨-, -, hlt⟩, -⟩ := hs
  replace hlt := hlt (busy_iff.2 (by rw [hst]; decide))
  have hold : acquired v = v.bitn.toNat := acquired_of_not_sliced (by rw [hst]; decide)
  simp only [BufferHolds, acquiredIn, hold] at hb hlt
  simpa only [BufferHolds, acquiredIn, hbuf, hacq, State.withBit_buf] using slice_firstBits bits hlt hb

/-- No clean bit ends before it starts. -/
theorem bitEntry_le_fallTick {e p w : Nat} (h : CleanBit s e p w) : e ≤ fallTick s.cfg p w :=
  h.1.trans (Nat.le_add_right _ _)

theorem bitEntry_pos (c : Config) (u : Nat) (r w : Nat → Nat) (j : Nat) : 1 ≤ bitEntry c u r w j := by
  cases j <;> exact Nat.succ_pos _

/-- When bit `j` of forty clean bits starts, the buffer holds the bits before it, each by the width of its pulse. -/
theorem runFor_bitEntry {u : Nat} {r w : Nat → Nat} (ha : AcceptsRead s) (hh : HandshakeAt s u) {j : Nat}
    (hj : j < nBits) (hclean : ∀ i < j, CleanBit s (bitEntry s.cfg u r w i) (r i) (w i))
    (hr : NoReset s (bitEntry s.cfg u r w j)) :
    ∃ x : State, runFor (bitEntry s.cfg u r w j) s = .next (x.later St.bitWaitHigh 0 (bitEntry s.cfg u r w j)) ∧
      x.bitn.toNat = j ∧
      BufferHolds (fun i => decide (s.cfg.tBitSample < w i)) (x.later St.bitWaitHigh 0 (bitEntry s.cfg u r w j)) := by
  induction j with
  | zero => exact ⟨s.cleared, runFor_enters_bitWaitHigh ha hh hr, rfl, bufferHolds_afterRead _ s⟩
  | succ j ih =>
    change j + 1 < 40 at hj
    have hbit := hclean j (Nat.lt_succ_self j)
    have hle : bitEntry s.cfg u r w j ≤ bitEntry s.cfg u r w (j + 1) := (bitEntry_le_fallTick hbit).trans (Nat.le_succ _)
    obtain ⟨x, hrun, rfl, hbits⟩ := ih (Nat.lt_of_succ_lt hj) (fun i hi => hclean i (Nat.lt_succ_of_lt hi))
      (noReset_mono hr hle)
    have hne : x.bitn ≠ 39#6 := fun h => by simp [h] at hj
    have hnext : (x.bitn + 1).toNat = x.bitn.toNat + 1 := bitn_succ_toNat (by omega)
    refine ⟨_, runFor_nextBit ha.1 hrun hbit hr hne, hnext, bufferHolds_of_slice ?_ rfl hbits rfl hnext⟩
    exact safeState_of_runFor ha (bitEntry_pos ..) hrun

/-- After bit 39 CHECK is current, with all forty bits in the buffer. -/
theorem runFor_check {u : Nat} {r w : Nat → Nat} (ha : AcceptsRead s) (hh : HandshakeAt s u)
    (hclean : ∀ i < nBits, CleanBit s (bitEntry s.cfg u r w i) (r i) (w i))
    (hr : NoReset s (fallTick s.cfg (r 39) (w 39) + 1)) :
    ∃ v, runFor (fallTick s.cfg (r 39) (w 39) + 1) s = .next v ∧ v.st = St.check ∧
      BufferHolds (fun i => decide (s.cfg.tBitSample < w i)) v := by
  have hbit := hclean 39 (by decide)
  obtain ⟨x, hrun, hbitn, hbits⟩ := runFor_bitEntry ha hh (j := 39) (by decide) (fun i hi => hclean i (hi.trans (by decide)))
    (noReset_mono hr ((bitEntry_le_fallTick hbit).trans (Nat.le_succ _)))
  have hsafe := safeState_of_runFor ha (bitEntry_pos ..) hrun
  refine ⟨_, runFor_lastBit ha.1 hrun hbit hr (BitVec.eq_of_toNat_eq hbitn), rfl, bufferHolds_of_slice hsafe rfl hbits ?_ rfl⟩
  rw [State.later_buf, ← hbitn]
  rfl

/-! ## CHECK, and the whole READ -/

/-- In CHECK every byte has all its eight bits. -/
theorem acquiredIn_of_check (hs : SafeState v) (hst : v.st = St.check) : ∀ k < nBytes, acquiredIn v k = 8 := by
  obtain ⟨-, -, -, -, ⟨-, hbitn, -⟩, -⟩ := hs
  intro k hk
  rw [acquiredIn, acquired_of_sliced (.inr hst), hbitn hst]
  change k < 5 at hk
  change min 8 (40 - 8 * k) = 8
  omega

/-- The tick of CHECK reports the decode of the buffer or a mismatch, and keeps the session (R141). -/
theorem step_of_check (hs : SafeState v) (hst : v.st = St.check) (hr : v.input.rst = false) :
    ∃ t, step v = .next t ∧ t.st = St.idle ∧ t.done = true ∧ t.bitn = 39#6 ∧ t.buf = v.buf ∧
      (checksum t.buf = fieldC t.buf → t.status = Stat.ok ∧ t.errState = 0x0#4 ∧ t.mHum = decodeHum t.buf ∧
        t.mTmag = decodeTmag t.buf ∧ t.mTneg = decodeTneg t.buf) ∧
      (checksum t.buf ≠ fieldC t.buf → t.status = Stat.checksumMismatch ∧ t.errState = 0x9#4 ∧ MeasurementZero t) := by
  obtain ⟨hc, ⟨hrep, -⟩, -, -, ⟨-, hbitn, -⟩, -⟩ := hs
  obtain ⟨-, -, herr, hzero⟩ := hrep.of_busy (busy_iff.2 (by rw [hst]; decide))
  by_cases hk : checksum v.buf = fieldC v.buf
  · exact ⟨_, step_of_ran hc (.checkOk hr hst hk), rfl, rfl, hbitn hst, rfl, fun _ => ⟨rfl, herr, rfl, rfl, rfl⟩,
      fun hne => absurd hk hne⟩
  · exact ⟨_, step_of_ran hc (.checkFail hr hst hk), rfl, rfl, hbitn hst, rfl, fun heq => absurd heq hk,
      fun _ => ⟨rfl, hst, hzero⟩⟩

/-- Settles O57: the handshake, forty clean bits one after the other, and the tick of CHECK. -/
theorem cleanFrameIsReadAndChecked : Obligations.CleanFrameIsReadAndChecked := by
  intro s u r w ha hh hclean hr
  obtain ⟨v, hrun, hst, hbits⟩ := runFor_check ha hh hclean (noReset_mono hr (Nat.le_succ _))
  have hsafe := safeState_of_runFor ha (Nat.succ_pos _) hrun
  obtain ⟨t, hstep, hidle, hdone, hbitn, hbuf, hreport⟩ := step_of_check hsafe hst (rst_of_runFor hrun hr)
  refine ⟨t, runFor_snoc hrun hstep, hidle, hdone, hbitn, fun k hk => ?_, hreport⟩
  rw [hbuf, hbits k hk, acquiredIn_of_check hsafe hst k hk]

end Sys2Proof.Machine

/-! SUPPORT. The rules of the payload tick by tick (R131, R133, R135), what they leave unchanged, the bits in the buffer (R51,
R136), and one clean pulse (R134, R137). -/

namespace Sys2Proof.Machine

variable {s t : State}

/-! ## One tick of the payload (R131, R133, R135) -/

theorem Released.of_st {c : StateCode} (h : s.st = c) (hc : lineOe c = false) : Released s := by rwa [Released, h]

/-- The slice as R133 writes it, for every byte. -/
theorem sliceInto_toNat_eq_mod (v : Byte) (b : Bool) : (sliceInto v b).toNat = ((v.toNat <<< 1) ||| b.toNat) % 256 :=
  BitVec.toNat_ofNat ..

theorem byteIndex_lt_nBytes (h : s.bitn.toNat ≤ 39) : s.byteIndex < nBytes := by
  change s.bitn.toNat / 8 < 5
  omega

/-- Settles O15: BIT_WAIT_HIGH is a poll for 1 whose exit action only enters BIT_SAMPLE. -/
theorem bitWaitHighPollsForTheRise : Obligations.BitWaitHighPollsForTheRise := by
  intro b s hc hst hk
  obtain ⟨-, -, -, -, -, ⟨-, hle⟩, -⟩ := legal_bounds hc
  refine ⟨?_, (Released.of_st hst rfl).outputs⟩
  change execBitWaitHigh s = _
  rw [execBitWaitHigh, poll_eq_ite hle hk, raiseFail_of_st hst, apply_ite Host.Outcome.next, apply_ite Host.Outcome.next]
  rfl

/-- Settles O16: BIT_SAMPLE is timed, and its exit action writes the byte `bitn / 8`, which the buffer has. -/
theorem bitSampleShiftsTheLevelIntoItsByte : Obligations.BitSampleShiftsTheLevelIntoItsByte := by
  intro b s hc hst hk hb
  obtain ⟨-, -, -, -, ⟨-, hle⟩, -⟩ := legal_bounds hc
  refine ⟨fun hlast => ?_, fun hmore => ?_, (Released.of_st hst rfl).outputs⟩
  · refine ⟨s.buf.write s.byteIndex (sliceInto (s.buf.read s.byteIndex) s.lineIn), ?_, ?_, fun a ha => ?_⟩
    · change execBitSample s = _
      rw [execBitSample, timed_eq_ite hle hk, if_pos hlast]
      rfl
    · change (Memory.read _ s.byteIndex).toNat = _
      rw [Memory.read_write_same _ (byteIndex_lt_nBytes hb), sliceInto_toNat_eq_mod]
      rfl
    · exact Memory.read_write_other _ _ ha
  · change execBitSample s = _
    rw [execBitSample, timed_eq_ite hle hk, if_neg hmore]

/-- Settles O17: BIT_WAIT_LOW is a poll for 0 whose exit action enters CHECK after bit 39 and raises `bitn` before it. -/
theorem bitWaitLowGoesToTheNextBitOrCheck : Obligations.BitWaitLowGoesToTheNextBitOrCheck := by
  intro b s hc hst hk hb
  obtain ⟨-, -, -, -, -, ⟨-, hle⟩, -⟩ := legal_bounds hc
  refine ⟨?_, fun _ => bitn_succ_toNat hb, (Released.of_st hst rfl).outputs⟩
  change execBitWaitLow s = _
  rw [execBitWaitLow, poll_eq_ite hle hk, raiseFail_of_st hst, apply_ite Host.Outcome.next, apply_ite Host.Outcome.next,
    apply_ite Host.Outcome.next]
  rfl

/-! ## Frames -/

/-- Settles O22: of the four things BIT_WAIT_LOW can do only the next bit writes `bitn`, and only the timeout the report. -/
theorem bitWaitLowFrame : Obligations.BitWaitLowFrame := by
  intro b s t h
  rcases execBitWaitLow_cases h with ⟨-, -, rfl⟩ | ⟨-, hb, rfl⟩ | ⟨-, -, rfl⟩ | ⟨-, -, rfl⟩
  · exact ⟨fun _ => rfl, ⟨rfl, rfl, rfl⟩, ⟨rfl, rfl, rfl⟩, .inl ⟨rfl, rfl, rfl, rfl⟩⟩
  · exact ⟨fun _ => rfl, ⟨rfl, rfl, rfl⟩, ⟨rfl, rfl, rfl⟩, .inr (.inl ⟨rfl, rfl, hb, rfl, rfl, rfl⟩)⟩
  · exact ⟨fun _ => rfl, ⟨rfl, rfl, rfl⟩, ⟨rfl, rfl, rfl⟩, .inr (.inr ⟨rfl, rfl, rfl, rfl⟩)⟩
  · exact ⟨fun _ => rfl, ⟨rfl, rfl, rfl⟩, ⟨rfl, rfl, rfl⟩, .inl ⟨rfl, rfl, rfl, rfl⟩⟩

/-- Settles O23: the last tick of BIT_SAMPLE writes one byte, and the ticks before it only count. -/
theorem bitSampleFrame : Obligations.BitSampleFrame := by
  intro b s t h
  rcases execBitSample_cases h with ⟨hlast, rfl⟩ | ⟨-, rfl⟩
  · refine ⟨rfl, ⟨rfl, rfl, rfl⟩, ⟨rfl, rfl, rfl⟩, ⟨rfl, rfl, rfl⟩, ?_, fun hmore => absurd hlast hmore⟩
    rintro _ rfl a ha
    exact Memory.read_write_other _ _ ha
  · exact ⟨rfl, ⟨rfl, rfl, rfl⟩, ⟨rfl, rfl, rfl⟩, ⟨rfl, rfl, rfl⟩, fun _ _ _ _ => rfl, fun _ _ => rfl⟩

/-! ## The bits in the buffer (R51, R136) -/

/-- Settles O45: a step that keeps the attempt running slices one bit into its byte, or moves neither the buffer nor the count of
sliced bits. -/
theorem bufferHoldsTheBitsSlicedSoFar : Obligations.BufferHoldsTheBitsSlicedSoFar := by
  intro bits s t hs hb hbits hstep ht hline
  obtain ⟨-, u, hmove, rfl⟩ := step_move hstep
  exact (hmove.continues hb ht).keeps_bufferHolds hs hbits hline

/-- Bits shifted in from zero are the sum of their places, the last bit in place 0. -/
theorem firstBits_eq_sum (bits : Nat → Bool) (k c : Nat) :
    firstBits bits k c = ∑ i ∈ Finset.range c, (bits (8 * k + i)).toNat * 2 ^ (c - 1 - i) := by
  induction c with
  | zero => rfl
  | succ c ih =>
    rw [firstBits, ih, Finset.sum_range_succ, Finset.mul_sum, Nat.add_sub_cancel, Nat.sub_self, Nat.pow_zero, Nat.mul_one]
    refine congrArg (· + _) (Finset.sum_congr rfl fun i hi => ?_)
    have hplace : c - i = c - 1 - i + 1 := by have := Finset.mem_range.1 hi; omega
    rw [hplace, Nat.pow_succ, Nat.mul_left_comm, Nat.mul_comm 2]

/-- After the bits of the bytes before byte `k`, its own bits are shifted in behind them. -/
theorem firstBits_append (bits : Nat → Bool) (k c : Nat) :
    firstBits bits 0 (8 * k + c) = firstBits bits 0 (8 * k) * 2 ^ c + firstBits bits k c := by
  induction c with
  | zero => simp [firstBits]
  | succ c ih =>
    rw [← Nat.add_assoc, firstBits, ih, firstBits, Nat.mul_zero, Nat.zero_add, Nat.pow_succ]
    ring

/-- The bit `i` places above the last of `c` bits came in `i` bits before it. -/
theorem testBit_firstBits (bits : Nat → Bool) (k : Nat) {c i : Nat} (hi : i < c) :
    (firstBits bits k c).testBit i = bits (8 * k + (c - 1 - i)) := by
  induction c generalizing i with
  | zero => omega
  | succ c ih =>
    rw [firstBits, ← Nat.bit_val]
    cases i with
    | zero => exact Nat.testBit_bit_zero ..
    | succ i =>
      rw [Nat.testBit_bit_succ, ih (Nat.lt_of_succ_lt_succ hi), Nat.add_sub_cancel, Nat.sub_sub, Nat.add_comm 1]

/-- Five full bytes are the forty bits shifted in one after the other. -/
theorem frameOf_toNat_of_full {bits : Nat → Bool} {m : Memory} (h : ∀ k < nBytes, (m.read k).toNat = firstBits bits k 8) :
    (frameOf m).toNat = firstBits bits 0 40 := by
  rw [frameOf_toNat, h 0 (by decide), h 1 (by decide), h 2 (by decide), h 3 (by decide), h 4 (by decide),
    firstBits_append bits 4 8, firstBits_append bits 3 8, firstBits_append bits 2 8, firstBits_append bits 1 8]
  ring

/-- Settles O46: a byte and the frame are bits shifted in from zero, 8 from bit `8k` on and 40 from bit 0 on. -/
theorem frameIsTheSumOfItsBits : Obligations.FrameIsTheSumOfItsBits := by
  intro bits m h
  refine ⟨fun k hk => (h k hk).trans (firstBits_eq_sum bits k 8), ?_, fun j hj => ?_⟩
  · rw [frameOf_toNat_of_full h, firstBits_eq_sum]
    simp only [Nat.mul_zero, Nat.zero_add]
  · have hbyte : j / 8 < nBytes := Nat.div_lt_of_lt_mul hj
    have hplace : 8 * (j / 8) + (8 - 1 - (7 - j % 8)) = j := by omega
    rw [← BitVec.testBit_toNat, h _ hbyte, testBit_firstBits bits _ (by omega), hplace]

/-! ## One clean pulse (R134, R137) -/

/-- The sample of a clean pulse reads 1 exactly when it is wider than `T_BIT_SAMPLE`, whatever the line does afterwards. -/
theorem lineAt_sample_of_cleanPulse {r w : Nat} (h : CleanPulse s r w) :
    s.lineAt (r + s.cfg.tBitSample) = decide (s.cfg.tBitSample < w) := by
  obtain ⟨-, -, -, hhigh, hafter⟩ := h
  by_cases hw : s.cfg.tBitSample < w
  · rw [hhigh _ (by omega) (by omega), decide_eq_true hw]
  · rw [hafter _ (by omega) (by omega), decide_eq_false hw]

/-- A state just entered is written as the state at tick 0 of its run. -/
theorem runFor_zero_later {c : StateCode} (hst : s.st = c) (h0 : s.cnt = 0) : runFor 0 s = .next (s.later c 0 0) := by
  have hself := State.later_self (s := s)
  rw [hst, h0] at hself
  exact congrArg Host.Outcome.next hself.symm

/-- From BIT_WAIT_HIGH just entered, a clean pulse is sliced by its width, and BIT_WAIT_LOW is entered. -/
theorem runFor_cleanPulse {r w : Nat} (hc : s.cfg.legal = true) (hst : s.st = St.bitWaitHigh) (h0 : s.cnt = 0)
    (hclean : CleanPulse s r w) (hr : NoReset s (r + s.cfg.tBitSample + 1)) : runFor (r + s.cfg.tBitSample + 1) s =
      .next ((s.withBit (decide (s.cfg.tBitSample < w))).later St.bitWaitLow 0 (r + s.cfg.tBitSample + 1)) := by
  have ⟨hbound, _, hlow, hhigh, _⟩ := hclean
  rw [← lineAt_sample_of_cleanPulse hclean]
  exact runFor_slice hc (runFor_zero_later hst h0) (Nat.zero_le r) (by omega) (fun i hi _ => hlow i hi)
    (hhigh r (by omega) le_rfl) hr

/-- Settles O56: the clean pulse up to the slice, and the clean bit up to the fall that BIT_WAIT_LOW sees. -/
theorem cleanPulseIsSlicedByItsWidth : Obligations.CleanPulseIsSlicedByItsWidth := by
  refine ⟨fun s r w hc hst h0 _ hclean hr => ?_, fun s r w hc hst h0 _ hclean hr => ?_⟩
  · exact ⟨_, runFor_cleanPulse hc hst h0 hclean hr, rfl, rfl, rfl, rfl, ⟨rfl, rfl, rfl⟩, ⟨rfl, rfl, rfl⟩, rfl⟩
  · have hstart := runFor_zero_later hst h0
    by_cases hb : s.bitn = 39#6
    · rw [if_pos hb, if_pos hb]
      exact ⟨_, runFor_lastBit hc hstart hclean hr hb, rfl, rfl, hb, rfl, ⟨rfl, rfl, rfl⟩, ⟨rfl, rfl, rfl⟩, rfl⟩
    · rw [if_neg hb, if_neg hb]
      exact ⟨_, runFor_nextBit hc hstart hclean hr hb, rfl, rfl, rfl, rfl, ⟨rfl, rfl, rfl⟩, ⟨rfl, rfl, rfl⟩, rfl⟩

end Sys2Proof.Machine

/-! SUPPORT. CHECK (R141): what it does as one equation and what it leaves unchanged; the checksum and the decode of the buffer
as naturals (R142, R144, R145); the signed and the scaled outputs (R146, R147); and the round trip of a measurement through its
wire form (R148). -/

namespace Sys2Proof.Machine

variable {s : State} {m : Memory} {hum mag : Nat} {neg : Bool}

/-! ## The one tick of CHECK (R141, R142) -/

theorem execCheck_of_match (h : checksum s.buf = fieldC s.buf) : execCheck s =
    .next (((s.latch (decodeHum s.buf) (decodeTmag s.buf) (decodeTneg s.buf)).reportOk).enter St.idle) := if_pos h

theorem execCheck_of_mismatch (h : checksum s.buf ≠ fieldC s.buf) : execCheck s = raiseFail .checksumMismatch s := if_neg h

/-- Settles O18: the comparison of CHECK on naturals, and the whole next state of each of its branches. -/
theorem checkValidatesThenPresentsOrFails : Obligations.CheckValidatesThenPresentsOrFails := by
  intro b s hst
  refine ⟨?_, (Released.of_st hst rfl).outputs⟩
  change execCheck s = _
  by_cases hk : checksum s.buf = fieldC s.buf
  · rw [execCheck_of_match hk, if_pos ((checksum_eq_iff s.buf).1 hk).symm]
    rfl
  · rw [execCheck_of_mismatch hk, raiseFail_of_st hst, if_neg fun hsum => hk ((checksum_eq_iff s.buf).2 hsum.symm)]
    rfl

/-- Settles O24: CHECK writes the measurement or `err_state`, and the status it leaves says which. -/
theorem checkFrame : Obligations.CheckFrame := by
  intro b s t h
  rcases execCheck_cases h with ⟨-, rfl⟩ | ⟨-, rfl⟩
  · exact ⟨⟨rfl, fun _ => rfl⟩, ⟨rfl, rfl, rfl⟩, rfl, rfl, rfl, fun _ => rfl, fun hne => absurd rfl hne⟩
  · exact ⟨⟨rfl, fun _ => rfl⟩, ⟨rfl, rfl, rfl⟩, rfl, rfl, rfl,
      fun hok => absurd hok (errorCode_ne_ok .checksumMismatch), fun _ => ⟨rfl, rfl, rfl⟩⟩

theorem exactSum_le (m : Memory) : exactSum m ≤ 1020 := by
  have h0 := (m.read 0).isLt
  have h1 := (m.read 1).isLt
  have h2 := (m.read 2).isLt
  have h3 := (m.read 3).isLt
  unfold exactSum
  omega

theorem checksum_toNat (m : Memory) : (checksum m).toNat = exactSum m % 256 := by
  rw [checksum, BitVec.toNat_ofNat, Nat.mod_mod]

/-- Settles O25: four bytes sum to at most `4 * 255`, and equal bytes are equal naturals. -/
theorem checksumIsTheTruncatedSum : Obligations.ChecksumIsTheTruncatedSum := fun m =>
  ⟨rfl, exactSum_le m, checksum_toNat m, BitVec.toNat_inj.symm⟩

/-! ## The decode of the buffer (R144, R145) -/

theorem decodeTmag_toNat (m : Memory) : (decodeTmag m).toNat = (fieldT m).toNat % 2 ^ 15 := by
  rw [decodeTmag, fieldM_toNat, fieldT_toNat]

/-- The sign is the top bit of `buf[2]`. -/
theorem fieldS_eq_getLsbD (m : Memory) : fieldS m = (m.read 2).getLsbD 7 := BitVec.getLsbD_append

theorem fieldS_eq_decide (m : Memory) : fieldS m = decide (2 ^ 15 ≤ (fieldT m).toNat) :=
  (BitVec.msb_eq_getLsbD_last _).symm.trans (BitVec.msb_eq_decide _)

theorem decodeTneg_eq (m : Memory) : decodeTneg m = (fieldS m && decide ((decodeTmag m).toNat ≠ 0)) :=
  congrArg (fieldS m && ·) (decide_eq_decide.2 BitVec.toNat_inj.symm.not)

theorem decodeTneg_of_decodeTmag_zero (h : decodeTmag m = 0) : decodeTneg m = false := by
  rw [decodeTneg_eq, h]
  exact Bool.and_false _

/-- R145's negative zero: presented as +0, the sign still visible in the raw byte. -/
theorem decode_negative_zero (h : fieldT m = 0x8000#16) :
    decodeTmag m = 0 ∧ decodeTneg m = false ∧ m.read 2 = 0x80#8 := by
  have hmag : decodeTmag m = 0 := by
    apply BitVec.eq_of_toNat_eq
    rw [decodeTmag_toNat, h]
    rfl
  refine ⟨hmag, decodeTneg_of_decodeTmag_zero hmag, BitVec.eq_of_toNat_eq ?_⟩
  have hfield := fieldT_toNat m
  have hlow := (m.read 3).isLt
  rw [h] at hfield
  change 0x8000 = _ at hfield
  change _ = 0x80
  omega

/-- Settles O26: the fields as naturals; masking with `0x7FFF` is the remainder by `2^15`. -/
theorem fieldsDecodeUnsignedAndSignMagnitude : Obligations.FieldsDecodeUnsignedAndSignMagnitude := by
  intro m
  refine ⟨fieldH_toNat m, Nat.le_of_lt_succ (decodeHum m).isLt, fieldM_toNat m, ?_, Nat.le_of_lt_succ (decodeTmag m).isLt,
    ?_, fun h => ?_⟩
  · exact (fieldM_toNat m).trans (Nat.and_two_pow_sub_one_eq_mod _ 15).symm
  · rw [decodeTneg_eq, fieldS_eq_getLsbD, Bool.and_eq_true, decide_eq_true_eq]
  · obtain ⟨hmag, hneg, hraw⟩ := decode_negative_zero h
    refine ⟨hneg, hmag, ?_, fun s hs => ?_⟩
    · rw [hneg, hmag]
      rfl
    · rw [← hs] at hraw
      exact hraw

/-! ## The signed temperature (R146) -/

/-- Read as two's complement, `temp_tenths` is the magnitude with its sign: 15 bits never reach the sign bit of 16. -/
theorem tempTenths_toInt (neg : Bool) (mag : Mag15) :
    (tempTenths neg mag).toInt = if neg then -(mag.toNat : Int) else (mag.toNat : Int) := by
  have hmag := mag.isLt
  rw [BitVec.toInt_eq_toNat_cond, tempTenths_toNat]
  split_ifs <;> omega

theorem tempTenths_ne_min (neg : Bool) (mag : Mag15) : tempTenths neg mag ≠ 0x8000#16 := by
  intro h
  have hmag := mag.isLt
  have hvalue := tempTenths_toInt neg mag
  rw [h] at hvalue
  change (-32768 : Int) = _ at hvalue
  omega

theorem tempTenths_eq_zero_iff (neg : Bool) (mag : Mag15) : tempTenths neg mag = 0 ↔ mag = 0 := by
  rw [← BitVec.toInt_inj, tempTenths_toInt, ← BitVec.toNat_inj]
  change _ = (0 : Int) ↔ mag.toNat = 0
  omega

/-- Settles O27: `tempTenths_toInt` for each sign; a decoded magnitude of 0 never has the sign set. -/
theorem tempTenthsIsTheSignedValue : Obligations.TempTenthsIsTheSignedValue := by
  refine ⟨fun mag => ⟨tempTenths_toNat false mag, tempTenths_toNat true mag, tempTenths_toInt false mag,
    tempTenths_toInt true mag, tempTenths_ne_min false mag, tempTenths_ne_min true mag⟩, fun m => ⟨fun hneg => ?_, ?_⟩⟩
  · rw [decodeTneg_eq, Bool.and_eq_true, decide_eq_true_eq] at hneg
    exact Nat.one_le_iff_ne_zero.2 hneg.2
  · rw [tempTenths_eq_zero_iff]
    exact ⟨fun hmag => ⟨decodeTneg_of_decodeTmag_zero hmag, hmag⟩, And.right⟩

/-! ## The fixed-point scaler (R147) -/

theorem humFrac_toNat (s : State) : s.outputs.humFrac.toNat = s.mHum.toNat % 10 := fracPart_toNat _

theorem tempFrac_toNat (s : State) : s.outputs.tempFrac.toNat = s.mTmag.toNat % 10 := fracPart_toNat _

theorem humInt_humFrac_exact (s : State) : 10 * s.outputs.humInt.toNat + s.outputs.humFrac.toNat = s.mHum.toNat := by
  rw [humInt_toNat, humFrac_toNat, Nat.div_add_mod]

theorem tempInt_tempFrac_exact (s : State) : 10 * s.outputs.tempInt.toNat + s.outputs.tempFrac.toNat = s.mTmag.toNat := by
  rw [tempInt_toNat, tempFrac_toNat, Nat.div_add_mod]

/-- Settles O28: quotient and remainder by 10 of a 16-bit and of a 15-bit magnitude, which the ports' widths hold whole. -/
theorem scalerSplitsTenthsExactly : Obligations.ScalerSplitsTenthsExactly := by
  intro s
  refine ⟨humInt_toNat s, humFrac_toNat s, tempInt_toNat s, tempFrac_toNat s, (humInt_humFrac_exact s).symm,
    (tempInt_tempFrac_exact s).symm, ?_⟩
  have hhum := s.mHum.isLt
  have hmag := s.mTmag.isLt
  rw [humInt_toNat, humFrac_toNat, tempInt_toNat, tempFrac_toNat]
  omega

/-! ## The round trip of a measurement (R148) -/

/-- The buffer reads as the five bytes a sensor sends for the measurement. -/
def HoldsMeasurement (hum : Nat) (neg : Bool) (mag : Nat) (m : Memory) : Prop :=
  ∀ k < nBytes, m.read k = (encodeMeasurement hum neg mag).getD k 0x00#8

theorem append_extractLsb'_bytes (x : Field16) : x.extractLsb' 8 8 ++ x.extractLsb' 0 8 = x :=
  (BitVec.extractLsb'_append_extractLsb'_eq_extractLsb' (start₁ := 0) rfl).trans BitVec.extractLsb'_eq_self

theorem HoldsMeasurement.fieldH_eq (h : HoldsMeasurement hum neg mag m) : fieldH m = BitVec.ofNat 16 hum := by
  rw [fieldH, h 0 (by decide), h 1 (by decide)]
  exact append_extractLsb'_bytes _

theorem HoldsMeasurement.fieldT_eq (h : HoldsMeasurement hum neg mag m) : fieldT m = encodeT neg mag := by
  rw [fieldT, h 2 (by decide), h 3 (by decide)]
  exact append_extractLsb'_bytes _

theorem HoldsMeasurement.checksum_eq (h : HoldsMeasurement hum neg mag m) : checksum m = fieldC m := by
  rw [checksum, exactSum, fieldC, h 0 (by decide), h 1 (by decide), h 2 (by decide), h 3 (by decide), h 4 (by decide)]
  rfl

theorem encodeT_toNat (neg : Bool) (hmag : mag ≤ 32767) :
    (encodeT neg mag).toNat = mag + if neg then 0x8000 else 0 := by
  rw [encodeT, BitVec.toNat_ofNat]
  split_ifs <;> omega

theorem HoldsMeasurement.decodeHum_toNat (h : HoldsMeasurement hum neg mag m) (hhum : hum ≤ 65535) :
    (decodeHum m).toNat = hum := by
  rw [decodeHum, h.fieldH_eq, BitVec.toNat_ofNat]
  omega

theorem HoldsMeasurement.decodeTmag_toNat (h : HoldsMeasurement hum neg mag m) (hmag : mag ≤ 32767) :
    (decodeTmag m).toNat = mag := by
  rw [Machine.decodeTmag_toNat, h.fieldT_eq, encodeT_toNat neg hmag]
  split_ifs <;> omega

theorem HoldsMeasurement.fieldS_eq (h : HoldsMeasurement hum neg mag m) (hmag : mag ≤ 32767) : fieldS m = neg := by
  rw [fieldS_eq_decide, h.fieldT_eq, encodeT_toNat neg hmag]
  cases neg
  · exact decide_eq_false (Nat.not_le_of_lt (Nat.lt_succ_of_le hmag))
  · exact decide_eq_true (Nat.le_add_left _ _)

theorem HoldsMeasurement.decodeTneg_eq (h : HoldsMeasurement hum neg mag m) (hmag : mag ≤ 32767) :
    decodeTneg m = (neg && decide (mag ≠ 0)) := by
  rw [Machine.decodeTneg_eq, h.fieldS_eq hmag, h.decodeTmag_toNat hmag]

/-- The signed value survives also as a negative zero, since `-0 = 0`. -/
theorem HoldsMeasurement.tempTenths_toInt (h : HoldsMeasurement hum neg mag m) (hmag : mag ≤ 32767) :
    (tempTenths (decodeTneg m) (decodeTmag m)).toInt = if neg then -(mag : Int) else (mag : Int) := by
  rw [Machine.tempTenths_toInt, h.decodeTneg_eq hmag, h.decodeTmag_toNat hmag]
  by_cases hzero : mag = 0
  · simp only [hzero, Nat.cast_zero, neg_zero, ite_self]
  · simp only [decide_eq_true hzero, Bool.and_true]

/-- Settles O29: the encoded bytes pass the comparison, decode to the measurement, and the scaler's splits add up to it. -/
theorem measurementRoundTrips : Obligations.MeasurementRoundTrips := by
  intro b neg hum mag s hhum hmag hbytes
  have h : HoldsMeasurement hum neg mag s.buf := hbytes
  exact ⟨_, execCheck_of_match h.checksum_eq, rfl, rfl, (humInt_humFrac_exact _).trans (h.decodeHum_toNat hhum),
    (tempInt_tempFrac_exact _).trans (h.decodeTmag_toNat hmag), h.decodeTneg_eq hmag, h.tempTenths_toInt hmag⟩

end Sys2Proof.Machine

/-! SUPPORT. The failure procedure (R163), and that no rule stops the block: the one fault of a step is a reserved state code
(R161, R162), and the places no run reaches go on. -/

namespace Sys2Proof.Machine

variable {s : State}

/-! ## The failure procedure (R163) -/

theorem released_enter_idle (s : State) : Released (s.enter St.idle) := Released.of_st (State.enter_st s St.idle) rfl

/-- Settles O19: the one state the failure procedure answers is IDLE, where the line is released, with the measurement registers
it found. -/
theorem failRecordsTheKindAndTheState : Obligations.FailRecordsTheKindAndTheState := by
  refine fun k s => ⟨raiseFail_of_st rfl k, fun t ht => ?_⟩
  obtain rfl := Host.Outcome.next.inj ht
  obtain ⟨hoe, hpu⟩ := (released_enter_idle (s.reportFailure k)).outputs
  exact ⟨rfl, rfl, rfl, hoe, hpu, fun hzero => measurementOutputs_zero (s := (s.reportFailure k).enter St.idle) hzero⟩

/-! ## No rule stops the block (R161, R162) -/

theorem poll_level {l : Bool} {exit : State → Result} (h : s.lineIn = l) : poll l exit s = exit s := if_pos h

/-- A store at an index the buffer does not have (assumption 5). -/
theorem State.putByte_outside {k : Nat} (hk : nBytes ≤ k) (v : Byte) : s.putByte k v = s := by
  rw [State.putByte, Memory.write_outside _ hk]

theorem nBytes_le_byteIndex (h : 40 ≤ s.bitn.toNat) : nBytes ≤ s.byteIndex := by
  change 5 ≤ s.bitn.toNat / 8
  omega

/-- The last tick of BIT_SAMPLE with `bitn` of 40 to 63 (assumption 5). -/
theorem execBitSample_outside (hb : 40 ≤ s.bitn.toNat) (hlast : s.cnt + 1 = s.cfg.tBitSample) :
    execBitSample s = .next (s.enter St.bitWaitLow) := by
  rw [execBitSample, timed_last hlast, State.putByte_outside (nBytes_le_byteIndex hb)]

/-- BIT_WAIT_LOW sees the end of a bit that is not the last one. -/
theorem execBitWaitLow_nextBit (hl : s.lineIn = false) (hb : s.bitn ≠ 39#6) :
    execBitWaitLow s = .next ((s.setBitn (s.bitn + 1)).enter St.bitWaitHigh) := by
  rw [execBitWaitLow, poll_level hl, if_neg hb]

/-- The end of a bit with `bitn = 63`, whose successor in 6 bits is 0 (assumption 13). -/
theorem execBitWaitLow_wraps (hb : s.bitn = 63#6) (hl : s.lineIn = false) :
    execBitWaitLow s = .next ((s.setBitn 0#6).enter St.bitWaitHigh) := by
  have hwrap : s.bitn + 1 = 0#6 := by rw [hb]; rfl
  rw [execBitWaitLow_nextBit hl (by rw [hb]; decide), hwrap]

/-- Settles O20: every row answers, a step faults before any row runs, and the two unreached places by the equation of each. -/
theorem nothingStopsButAReservedState : Obligations.NothingStopsButAReservedState := by
  refine ⟨exec_answers, fun s r hfault => ?_, fun _ _ hb hlast => execBitSample_outside hb hlast,
    fun _ _ hb hl => execBitWaitLow_wraps hb hl⟩
  obtain ⟨hc, rfl, -⟩ := (step_fault_iff r).1 hfault
  obtain ⟨hrst, hcode⟩ := (step_reservedState_iff hc).1 hfault
  exact ⟨rfl, hc, hrst, hcode⟩

end Sys2Proof.Machine

/-! SUPPORT. What a reset leaves (R180) and the launch state (R183). -/

namespace Sys2Proof.Machine

theorem exec_reset (b : Bool) (c : StateCode) (s : State) : exec (.reset b c) s = .next s.resetRegisters := rfl

/-- The ports are functions of the registers alone, so they show neither the configuration nor the tick number nor the inputs. -/
theorem launchState_outputs (c : Config) (n : Nat) (p : List Inputs) : (launchState c n p).outputs = State.reset.outputs := rfl

/-- Settles O6: RESET answers the state with its registers reset, and under `rst = 1` the tick of RESET ends in a launch state. -/
theorem resetStepGivesTheResetState : Obligations.ResetStepGivesTheResetState :=
  ⟨exec_reset, fun _ hc hr => ⟨step_of_rst hc hr, launchState_outputs _ _ _⟩⟩

/-- The reset state is the launch state under REF, at tick 0 and before no inputs. -/
theorem launchState_ref : launchState Config.ref 0 [] = State.reset := rfl

/-- Settles O36: a launch state is safe under every legal configuration, and the reset state is one of them. -/
theorem launchStateIsSafe : Obligations.LaunchStateIsSafe :=
  ⟨launchState_ref ▸ safeState_launchState Config.ref 0 [] (by decide), safeState_launchState⟩

end Sys2Proof.Machine

/-! SUPPORT. The frame of the rows that store nothing: IDLE, the line reservation, the handshake and BIT_WAIT_HIGH. -/

namespace Sys2Proof.Machine

variable {s t : State}

/-- `StoresNothing s t`: at most `st` and `cnt` differ, the buffer compared byte by byte. -/
def StoresNothing (s t : State) : Prop := SameSession s t ∧ SameReport s t ∧ SameMeasurement s t ∧ SameEnvironment s t

/-- `StoresNothingOrFails s t`: at most `st`, `cnt` and the report differ, and the report only on a failing exit to IDLE. -/
def StoresNothingOrFails (s t : State) : Prop :=
  SameSession s t ∧ SameMeasurement s t ∧ SameEnvironment s t ∧
    (SameReport s t ∨ (t.done = true ∧ t.errState = s.st ∧ t.st = St.idle))

theorem storesNothing_refl (s : State) : StoresNothing s s :=
  ⟨⟨rfl, fun _ => rfl⟩, ⟨rfl, rfl, rfl⟩, ⟨rfl, rfl, rfl⟩, rfl, rfl, rfl⟩

theorem storesNothing_enter (s : State) (c : StateCode) : StoresNothing s (s.enter c) := storesNothing_refl s

theorem storesNothing_setCnt (s : State) (n : Nat) : StoresNothing s (s.setCnt n) := storesNothing_refl s

theorem StoresNothing.orFails (h : StoresNothing s t) : StoresNothingOrFails s t := by
  obtain ⟨hsession, hreport, hmeasurement, henvironment⟩ := h
  exact ⟨hsession, hmeasurement, henvironment, .inl hreport⟩

/-- R163: the failure procedure writes the report and goes to IDLE. -/
theorem storesNothingOrFails_reportFailure (k : ErrorKind) (s : State) :
    StoresNothingOrFails s ((s.reportFailure k).enter St.idle) :=
  ⟨⟨rfl, fun _ => rfl⟩, ⟨rfl, rfl, rfl⟩, ⟨rfl, rfl, rfl⟩, .inr ⟨rfl, rfl, rfl⟩⟩

/-- R91: a timed state whose exit action only enters another state stores nothing. -/
theorem timed_storesNothing {d : Nat} {c : StateCode} (h : timed d (fun s => .next (s.enter c)) s = .next t) :
    StoresNothing s t := by
  rcases timed_cases h with ⟨-, hexit⟩ | ⟨-, rfl⟩
  · obtain rfl := Host.Outcome.next.inj hexit
    exact storesNothing_enter s c
  · exact storesNothing_setCnt s _

/-- R92: a poll state whose exit action only enters another state stores nothing, except that its timeout fails. -/
theorem poll_storesNothingOrFails {l : Bool} {c : StateCode} (h : poll l (fun s => .next (s.enter c)) s = .next t) :
    StoresNothingOrFails s t := by
  rcases poll_cases h with ⟨-, hexit⟩ | ⟨-, -, rfl⟩ | ⟨-, -, rfl⟩
  · obtain rfl := Host.Outcome.next.inj hexit
    exact (storesNothing_enter s c).orFails
  · exact storesNothingOrFails_reportFailure .timeout s
  · exact (storesNothing_setCnt s _).orFails

theorem execRespSettle_storesNothingOrFails (h : execRespSettle s = .next t) : StoresNothingOrFails s t := by
  rcases execRespSettle_cases h with ⟨-, -, rfl⟩ | ⟨-, -, rfl⟩ | ⟨-, rfl⟩
  · exact storesNothingOrFails_reportFailure .noResponse s
  · exact (storesNothing_enter s _).orFails
  · exact (storesNothing_setCnt s _).orFails

theorem execRespLow_storesNothingOrFails (h : execRespLow s = .next t) : StoresNothingOrFails s t := by
  rcases execRespLow_cases h with ⟨-, -, rfl⟩ | ⟨-, -, rfl⟩ | ⟨-, rfl⟩
  · exact storesNothingOrFails_reportFailure .invalidHandshake s
  · exact (storesNothing_enter s _).orFails
  · exact (storesNothing_setCnt s _).orFails

/-- Settles O21: row by row, IDLE keeps the state and the line reservation is timed; of the rows that can fail, two are timed
with an exit action that samples the line, and two are polls. -/
theorem statesThatStoreNothingFrame : Obligations.StatesThatStoreNothingFrame := by
  refine ⟨fun i s t hi h => ?_, fun i s t hi h => ?_⟩
  · rcases hi with rfl | ⟨b, rfl⟩ | ⟨b, rfl⟩
    · obtain rfl := execIdle_cases h
      exact storesNothing_refl _
    · exact timed_storesNothing (c := St.startHigh) h
    · exact timed_storesNothing (c := St.respSettle) h
  · rcases hi with ⟨b, rfl⟩ | ⟨b, rfl⟩ | ⟨b, rfl⟩ | ⟨b, rfl⟩
    · exact execRespSettle_storesNothingOrFails h
    · exact execRespLow_storesNothingOrFails h
    · exact poll_storesNothingOrFails (c := St.bitWaitHigh) h
    · exact poll_storesNothingOrFails (c := St.bitSample) h

end Sys2Proof.Machine
